-- ==== Sys2Proof/Word.lean ====
section
/-!
DEFINITION. The 16-bit word of the KHDL core and its two readings (spec/00_scope.md R10).
-/

namespace Sys2Proof

/-- Every register, memory word and port value is a 16-bit pattern (R10, R7 `XLEN = 16`). -/
abbrev Word := BitVec 16

/-- `u(v)`: the unsigned reading, 0 to 65535 (R10). -/
def Word.unsigned (v : Word) : Nat := v.toNat

/-- `s(v)`: the two's-complement signed reading, -32768 to 32767 (R10). -/
def Word.signed (v : Word) : Int := v.toInt

/-- A mathematical integer outside the signed 16-bit range -32768 to 32767 (43_alu.md R186). -/
def outOfSignedRange (x : Int) : Bool := decide (x < -32768 ∨ 32767 < x)

end Sys2Proof
end

