-- ==== Sys2Proof/Config.lean ====
section
/-!
DEFINITION. What is fixed for the machine (spec/00_scope.md R7, R8) and the free values: what the spec leaves
unspecified is an opaque constant here, so nothing can be proved of it (spec/93_implementation_defined.md U4, U7).
The named switches of R8 and ALU_TABLE stand in Sys2Proof/Machine/Switches.lean.
-/

namespace Sys2Proof.Config

/-- The working memory has `2^16` words and the port space `2^16` ports (R7, R60, R71). -/
def addressSpace : Nat := 65536

/-- The longest ROM the bootloader's 16-bit counter loads correctly (70_reset_and_hazards.md R375). -/
def maxRomLength : Nat := 65535

/-- Clock pulses of one ordinary instruction: Fetch and Execute (R399). -/
def pulsesPerInstruction : Nat := 2

/-- FREE VALUE (entry 2): what a word of working memory reads as that nothing has written since power-on or
reset, by address (R42, R69, U4). -/
opaque unwrittenWord : Word → Word

/-- FREE VALUE (entry 8): what the input side of a port reads as that no device drives and the host never wrote,
by the position of the read in the run and the port (`IoIn`, R72, U7). -/
opaque undrivenInput : Nat → Word → Word

/-- FREE VALUE (entry 10): the committed output of a port the CPU has not written, by port (R346). -/
opaque unwrittenOutput : Word → Word

/-- FREE VALUE (entry 9): whether an IO read at an edge sees what a device's `update()` of that same edge put on
the port, by the position of the read in the run (R347, D25). -/
opaque sameEdgeUpdateSeen : Nat → Bool

end Sys2Proof.Config
end

