-- ==== Sys2Proof/Names.lean ====
section
/-!
DEFINITION. The names that instruction fields stand for: registers, conditions, ALU destinations and the 21 ALU
operations (spec/10_state.md R21, spec/42_cmp.md R161, spec/43_alu.md R183).
-/

namespace Sys2Proof

/-- The eight writable registers, in the order of their codes 0 to 7 (R21, R99). -/
inductive Reg
  | a | b | c | d | p | q | bp | sp
  deriving DecidableEq, Repr

/-- The ten register identities `debugRegister` reads: the writable ones and the two read-only
pseudo-registers `IP` and `FLAGS` (60_exceptions.md R352). -/
inductive RegId
  | writable (r : Reg)
  | ip
  | flags
  deriving DecidableEq, Repr

/-- The condition field of CMP: three independent flags (R102, R161). -/
structure Cond where
  equal : Bool
  less : Bool
  greater : Bool
  deriving DecidableEq, Repr

/-- The destination of an ALU instruction: "Q-vs-P" (R181). -/
inductive AluDest
  | p | q
  deriving DecidableEq, Repr

/-- The writable register an ALU destination names (R25, R181). -/
def AluDest.reg : AluDest → Reg
  | .p => .p
  | .q => .q

/-- The 21 operations of ALU_TABLE, by the spec's own names (R183). -/
inductive AluOp
  | zero | one | negOne | a | b | notA | notB | negA | negB
  | aPlus1 | bPlus1 | aMinus1 | bMinus1 | aPlusB | aMinusB | bMinusA
  | and | or | shl | shr | xor
  deriving DecidableEq, Repr

/-- One row of an operation table: the 6-bit code and the operation it selects (R103, R183). -/
structure AluRow where
  code : BitVec 6
  op : AluOp
  deriving DecidableEq, Repr

/-- An operation table: the parameter `ALU_TABLE` of the model (R8, R183). -/
abbrev AluTable := List AluRow

/-- A bit position for each of the three condition flags in the 3-bit condition field (R102). -/
structure CondBits where
  equal : Nat
  less : Nat
  greater : Nat
  deriving DecidableEq, Repr

/-- A bit position for each of the three flags in the value `FLAGS` reads as (R32). -/
structure FlagBits where
  z : Nat
  n : Nat
  v : Nat
  deriving DecidableEq, Repr

/-- Which of the two register fields of format X holds the address or the port (R98). -/
inductive AddrField
  | ra | rb
  deriving DecidableEq, Repr

end Sys2Proof
end

