-- ==== Sys2Proof/Machine/Switches.lean ====
section
/-!
DEFINITION. The named switches and parameters of spec/00_scope.md R8 and spec/92_eei_decisions.md: each is a
decision of the spec where its source is silent, kept in one place so that it can be changed there.
-/

namespace Sys2Proof.Switch

/-- `ALU_TABLE`, the default operation table (43_alu.md R183, D8; log entry 11). -/
def aluTable : AluTable :=
  [ ⟨0b101010#6, .zero⟩, ⟨0b111111#6, .one⟩, ⟨0b111010#6, .negOne⟩,
    ⟨0b001100#6, .a⟩, ⟨0b110000#6, .b⟩, ⟨0b001101#6, .notA⟩, ⟨0b110001#6, .notB⟩,
    ⟨0b001111#6, .negA⟩, ⟨0b110011#6, .negB⟩,
    ⟨0b011111#6, .aPlus1⟩, ⟨0b110111#6, .bPlus1⟩, ⟨0b001110#6, .aMinus1⟩, ⟨0b110010#6, .bMinus1⟩,
    ⟨0b000010#6, .aPlusB⟩, ⟨0b010011#6, .aMinusB⟩, ⟨0b000111#6, .bMinusA⟩,
    ⟨0b000000#6, .and⟩, ⟨0b010101#6, .or⟩,
    ⟨0b000001#6, .shl⟩, ⟨0b000100#6, .shr⟩, ⟨0b000101#6, .xor⟩ ]

/-- `SET_FLAG_SELECTS_HIGH = true`: SET with `fl = 1` is SETH (R146, D3; log entry 13). -/
def setFlagSelectsHigh : Bool := true

/-- `SET_KEEPS_OTHER_BYTE = true`: the byte SET does not select keeps its value (R146, D3; log entry 13). -/
def setKeepsOtherByte : Bool := true

/-- `COND_BIT_ORDER = (equal, less, greater)` from bit 11 down (R102, D5; log entry 14). -/
def condBitOrder : CondBits := ⟨2, 1, 0⟩

/-- `FLAGS_LAYOUT = (Z, N, V)` from bit 2 down (R32, D12; log entry 17). -/
def flagsLayout : FlagBits := ⟨2, 1, 0⟩

/-- `IP_READ_OFFSET = 0`: MOV from IP reads the MOV's own address (R29, D13; log entry 17). -/
def ipReadOffset : Word := 0

/-- `MEM_ADDR_FIELD = ra`: the address or port register of format X (R98, D14, D15; log entry 18). -/
def memAddrField : AddrField := .ra

/-- `ALU_DEST_FLAG_Q = 1`: the value of `fl` that selects `Q` (R104, D7; log entry 15). -/
def aluDestFlagQ : Bool := true

/-- `SHIFT_RIGHT_ARITHMETIC = false`: SHR fills bit 15 with 0 (R209, D11; log entry 16). -/
def shiftRightArithmetic : Bool := false

/-- `UPDATES_PER_INSTRUCTION = 2`: device `update()` rounds per instruction (60_exceptions.md R345, D34; log entry 26). -/
def updatesPerInstruction : Nat := 2

end Sys2Proof.Switch
end

