-- ==== Sys2Proof/Syntax.lean ====
section
/-!
DEFINITION. The instructions: one constructor per row of spec/opcode_table.json (34 rows). Every field's type has
exactly the values the field's bits can name (spec/30_encoding.md R99 to R104, R108).
-/

namespace Sys2Proof

inductive Instr
  /-- HLT (R131) -/
  | hlt
  /-- NOP (R132) -/
  | nop
  /-- MOV rd, rs with a writable source (R141) -/
  | mov (rd rs : Reg)
  /-- MOV_IP: MOV rd, IP (R142) -/
  | movIp (rd : Reg)
  /-- MOV_FLAGS: MOV rd, FLAGS (R143) -/
  | movFlags (rd : Reg)
  /-- SETL rd, imm8 (R146) -/
  | setl (rd : Reg) (imm : BitVec 8)
  /-- SETH rd, imm8 (R146) -/
  | seth (rd : Reg) (imm : BitVec 8)
  /-- CMP.S cc, rd: condition to register (R165) -/
  | cmpS (cond : Cond) (rd : Reg)
  /-- CMP.J cc, rt: conditional jump (R164) -/
  | cmpJ (cond : Cond) (rt : Reg)
  /-- ALU.ZERO (R190) -/
  | aluZero (dst : AluDest) (ra rb : Reg)
  /-- ALU.ONE (R191) -/
  | aluOne (dst : AluDest) (ra rb : Reg)
  /-- ALU.NEG_ONE (R192) -/
  | aluNegOne (dst : AluDest) (ra rb : Reg)
  /-- ALU.A (R193) -/
  | aluA (dst : AluDest) (ra rb : Reg)
  /-- ALU.B (R194) -/
  | aluB (dst : AluDest) (ra rb : Reg)
  /-- ALU.NOT_A (R195) -/
  | aluNotA (dst : AluDest) (ra rb : Reg)
  /-- ALU.NOT_B (R196) -/
  | aluNotB (dst : AluDest) (ra rb : Reg)
  /-- ALU.NEG_A (R197) -/
  | aluNegA (dst : AluDest) (ra rb : Reg)
  /-- ALU.NEG_B (R198) -/
  | aluNegB (dst : AluDest) (ra rb : Reg)
  /-- ALU.A_PLUS_1 (R199) -/
  | aluAPlus1 (dst : AluDest) (ra rb : Reg)
  /-- ALU.B_PLUS_1 (R200) -/
  | aluBPlus1 (dst : AluDest) (ra rb : Reg)
  /-- ALU.A_MINUS_1 (R201) -/
  | aluAMinus1 (dst : AluDest) (ra rb : Reg)
  /-- ALU.B_MINUS_1 (R202) -/
  | aluBMinus1 (dst : AluDest) (ra rb : Reg)
  /-- ALU.A_PLUS_B (R203) -/
  | aluAPlusB (dst : AluDest) (ra rb : Reg)
  /-- ALU.A_MINUS_B (R204) -/
  | aluAMinusB (dst : AluDest) (ra rb : Reg)
  /-- ALU.B_MINUS_A (R205) -/
  | aluBMinusA (dst : AluDest) (ra rb : Reg)
  /-- ALU.AND (R206) -/
  | aluAnd (dst : AluDest) (ra rb : Reg)
  /-- ALU.OR (R207) -/
  | aluOr (dst : AluDest) (ra rb : Reg)
  /-- ALU.SHL (R208) -/
  | aluShl (dst : AluDest) (ra rb : Reg)
  /-- ALU.SHR (R209) -/
  | aluShr (dst : AluDest) (ra rb : Reg)
  /-- ALU.XOR (R210) -/
  | aluXor (dst : AluDest) (ra rb : Reg)
  /-- LD rd, [rx] (R232) -/
  | ld (rd rx : Reg)
  /-- ST [rx], rs (R233) -/
  | st (rx rs : Reg)
  /-- IN rd, (rx) (R234) -/
  | ioIn (rd rx : Reg)
  /-- OUT (rx), rs (R235) -/
  | ioOut (rx rs : Reg)
  deriving DecidableEq, Repr

end Sys2Proof
end

