-- ==== Sys2Proof/WellFormed.lean ====
section
/-!
DEFINITION. Well-formedness checks. Register, condition, immediate and destination fields cannot be ill formed (their
types hold exactly what their bits name); what can fail is an ALU instruction whose operation the table does not
encode (spec/43_alu.md R181, R183), a ROM that is too long (spec/70_reset_and_hazards.md R375), and a device whose
ports meet another's (spec/60_exceptions.md R342).
-/

namespace Sys2Proof

/-- The code a table gives an operation: the first row of that operation (R103). -/
def AluTable.codeOf (t : AluTable) (op : AluOp) : Option (BitVec 6) :=
  (t.find? (fun row => row.op == op)).map AluRow.code

/-- The operation a 6-bit code selects: the first row of that code (R103, R105). -/
def AluTable.opOf (t : AluTable) (code : BitVec 6) : Option AluOp :=
  (t.find? (fun row => row.code == code)).map AluRow.op

/-- The ALU operation of an instruction, where it is an ALU instruction. -/
def Instr.aluOp : Instr → Option AluOp
  | .aluZero _ _ _ => some .zero
  | .aluOne _ _ _ => some .one
  | .aluNegOne _ _ _ => some .negOne
  | .aluA _ _ _ => some .a
  | .aluB _ _ _ => some .b
  | .aluNotA _ _ _ => some .notA
  | .aluNotB _ _ _ => some .notB
  | .aluNegA _ _ _ => some .negA
  | .aluNegB _ _ _ => some .negB
  | .aluAPlus1 _ _ _ => some .aPlus1
  | .aluBPlus1 _ _ _ => some .bPlus1
  | .aluAMinus1 _ _ _ => some .aMinus1
  | .aluBMinus1 _ _ _ => some .bMinus1
  | .aluAPlusB _ _ _ => some .aPlusB
  | .aluAMinusB _ _ _ => some .aMinusB
  | .aluBMinusA _ _ _ => some .bMinusA
  | .aluAnd _ _ _ => some .and
  | .aluOr _ _ _ => some .or
  | .aluShl _ _ _ => some .shl
  | .aluShr _ _ _ => some .shr
  | .aluXor _ _ _ => some .xor
  | .hlt | .nop | .mov _ _ | .movIp _ | .movFlags _ | .setl _ _ | .seth _ _ | .cmpS _ _ | .cmpJ _ _
  | .ld _ _ | .st _ _ | .ioIn _ _ | .ioOut _ _ => none

/-- An operation a table encodes: it has a row, and no earlier row takes the row's code for another operation, so
that "encoding and decoding an operation are exact inverses" (R103, R180). -/
def AluTable.encodes (t : AluTable) (op : AluOp) : Bool :=
  match t.codeOf op with
  | none => false
  | some code => t.opOf code == some op

/-- An instruction is well formed under a table when its ALU operation, if it has one, is encoded by the table. -/
def Instr.wellFormedWith (t : AluTable) (i : Instr) : Bool :=
  match i.aluOp with
  | none => true
  | some op => t.encodes op

/-- Well-formedness under the table in use (R183). -/
def Instr.wellFormed (i : Instr) : Bool := i.wellFormedWith Switch.aluTable

/-- A ROM the bootloader loads: `0 <= N <= 65535` (R375, D21). -/
def romWellFormed (rom : List Word) : Bool := decide (rom.length ≤ Config.maxRomLength)

/-- Two devices' declared port sets, each the input ports then the output ports, do not meet (R342). -/
def portsDisjoint (ports installed : List Word) : Bool := ports.all (fun p => !installed.contains p)

end Sys2Proof
end

