-- ==== Sys2Proof/Decode.lean ====
section
/-!
DEFINITION. Decoding of the one 16-bit word (spec/30_encoding.md R90 to R105, R120) and, after it, encoding (R106).
-/

namespace Sys2Proof

/-- Why a word is reserved (R120). -/
inductive DecodeError
  /-- a MOV whose extended source code is 10 to 15 -/
  | reservedMovSource (code : BitVec 4)
  /-- an ALU instruction whose code is no row of ALU_TABLE -/
  | reservedAluCode (code : BitVec 6)
  deriving DecidableEq, Repr

/-- `op = w[15:13]` (R12, R91). -/
def opField (w : Word) : BitVec 3 := w.extractLsb' 13 3
/-- `fl = w[12]` (R12, R91). -/
def flField (w : Word) : Bool := w.getLsbD 12
/-- `ra = w[11:9]` (R12, R91). -/
def raField (w : Word) : BitVec 3 := w.extractLsb' 9 3
/-- `rb = w[8:6]` (R12, R91). -/
def rbField (w : Word) : BitVec 3 := w.extractLsb' 6 3
/-- `xsrc = w[12:9]`, the extended source of MOV (R12, R94). -/
def xsrcField (w : Word) : BitVec 4 := w.extractLsb' 9 4
/-- `aluop = w[5:0]` (R12, R91). -/
def aluopField (w : Word) : BitVec 6 := w.extractLsb' 0 6
/-- `imm8 = w[7:0]` (R12, R91, R101). -/
def immField (w : Word) : BitVec 8 := w.extractLsb' 0 8

/-- The writable register a 3-bit code names (R21, R99). -/
def regOfCode (code : BitVec 3) : Reg :=
  match code.toNat with
  | 0 => .a
  | 1 => .b
  | 2 => .c
  | 3 => .d
  | 4 => .p
  | 5 => .q
  | 6 => .bp
  | _ => .sp

/-- The 3-bit code of a writable register (R21, R99). -/
def Reg.code : Reg → BitVec 3
  | .a => 0#3
  | .b => 1#3
  | .c => 2#3
  | .d => 3#3
  | .p => 4#3
  | .q => 5#3
  | .bp => 6#3
  | .sp => 7#3

/-- The condition a 3-bit field stands for (R102, R161; switch `COND_BIT_ORDER`). -/
def condOfBits (c : BitVec 3) : Cond :=
  ⟨c.getLsbD Switch.condBitOrder.equal, c.getLsbD Switch.condBitOrder.less, c.getLsbD Switch.condBitOrder.greater⟩

/-- The 3-bit field of a condition (R102, R161). -/
def Cond.bits (c : Cond) : BitVec 3 :=
  (BitVec.ofBool c.equal).setWidth 3 <<< Switch.condBitOrder.equal |||
  (BitVec.ofBool c.less).setWidth 3 <<< Switch.condBitOrder.less |||
  (BitVec.ofBool c.greater).setWidth 3 <<< Switch.condBitOrder.greater

/-- The destination the flag bit of an ALU word selects (R104, R181; switch `ALU_DEST_FLAG_Q`). -/
def aluDestOfFlag (fl : Bool) : AluDest := if fl == Switch.aluDestFlagQ then .q else .p

/-- The flag bit of an ALU destination (R104). -/
def AluDest.flag : AluDest → Bool
  | .q => Switch.aluDestFlagQ
  | .p => !Switch.aluDestFlagQ

/-- The ALU instruction of an operation: the row `ALU.<operation>` of the opcode table. -/
def aluInstr (op : AluOp) (dst : AluDest) (ra rb : Reg) : Instr :=
  match op with
  | .zero => .aluZero dst ra rb
  | .one => .aluOne dst ra rb
  | .negOne => .aluNegOne dst ra rb
  | .a => .aluA dst ra rb
  | .b => .aluB dst ra rb
  | .notA => .aluNotA dst ra rb
  | .notB => .aluNotB dst ra rb
  | .negA => .aluNegA dst ra rb
  | .negB => .aluNegB dst ra rb
  | .aPlus1 => .aluAPlus1 dst ra rb
  | .bPlus1 => .aluBPlus1 dst ra rb
  | .aMinus1 => .aluAMinus1 dst ra rb
  | .bMinus1 => .aluBMinus1 dst ra rb
  | .aPlusB => .aluAPlusB dst ra rb
  | .aMinusB => .aluAMinusB dst ra rb
  | .bMinusA => .aluBMinusA dst ra rb
  | .and => .aluAnd dst ra rb
  | .or => .aluOr dst ra rb
  | .shl => .aluShl dst ra rb
  | .shr => .aluShr dst ra rb
  | .xor => .aluXor dst ra rb

/-- The address or port register of a format X word (R98; switch `MEM_ADDR_FIELD`). -/
def addrReg (w : Word) : Reg :=
  match Switch.memAddrField with
  | .ra => regOfCode (raField w)
  | .rb => regOfCode (rbField w)

/-- The data register of a format X word (R98). -/
def dataReg (w : Word) : Reg :=
  match Switch.memAddrField with
  | .ra => regOfCode (rbField w)
  | .rb => regOfCode (raField w)

/-- MOV: the extended source 0 to 7 is a writable register, 8 is IP, 9 is FLAGS, 10 to 15 are reserved (R94, R100, R141). -/
def decodeMov (w : Word) : Except DecodeError Instr :=
  match (xsrcField w).toNat with
  | 0 | 1 | 2 | 3 | 4 | 5 | 6 | 7 => .ok (.mov (regOfCode (rbField w)) (regOfCode (raField w)))
  | 8 => .ok (.movIp (regOfCode (rbField w)))
  | 9 => .ok (.movFlags (regOfCode (rbField w)))
  | _ => .error (.reservedMovSource (xsrcField w))

/-- SET (R95, R146; switch `SET_FLAG_SELECTS_HIGH`). -/
def decodeSet (w : Word) : Instr :=
  if flField w == Switch.setFlagSelectsHigh then .seth (regOfCode (raField w)) (immField w)
  else .setl (regOfCode (raField w)) (immField w)

/-- CMP (R96, R104). -/
def decodeCmp (w : Word) : Instr :=
  if flField w then .cmpJ (condOfBits (raField w)) (regOfCode (rbField w))
  else .cmpS (condOfBits (raField w)) (regOfCode (rbField w))

/-- ALU (R97, R103, R181). -/
def decodeAlu (w : Word) : Except DecodeError Instr :=
  match Switch.aluTable.opOf (aluopField w) with
  | some op => .ok (aluInstr op (aluDestOfFlag (flField w)) (regOfCode (raField w)) (regOfCode (rbField w)))
  | none => .error (.reservedAluCode (aluopField w))

/-- MEM (R98, R104). -/
def decodeMem (w : Word) : Instr :=
  if flField w then .st (addrReg w) (dataReg w) else .ld (dataReg w) (addrReg w)

/-- IO (R98, R104). -/
def decodeIo (w : Word) : Instr :=
  if flField w then .ioOut (addrReg w) (dataReg w) else .ioIn (dataReg w) (addrReg w)

/-- The decoding procedure of R105: total, and a reserved word is refused by name (R120). -/
def decode (w : Word) : Except DecodeError Instr :=
  match (opField w).toNat with
  | 0 => .ok .hlt
  | 1 => .ok .nop
  | 2 => decodeMov w
  | 3 => .ok (decodeSet w)
  | 4 => .ok (decodeCmp w)
  | 5 => decodeAlu w
  | 6 => .ok (decodeMem w)
  | _ => .ok (decodeIo w)

/-! ## Encoding -/

/-- A word from its fields: `op`, `fl`, the two register positions and the low six bits (R91). -/
def packWord (op : BitVec 3) (fl : Bool) (ra rb : BitVec 3) (low : BitVec 6) : Word :=
  op ++ BitVec.ofBool fl ++ ra ++ rb ++ low

/-- Format S: `op = 3`, `fl`, `ra`, bit 8 zero, `imm8` (R95). -/
def packSet (fl : Bool) (ra : BitVec 3) (imm : BitVec 8) : Word :=
  3#3 ++ BitVec.ofBool fl ++ ra ++ 0#1 ++ imm

/-- Format A: the code is the operation's in the table (R97, R106); an operation with no row has none to write. -/
def packAlu (op : AluOp) (dst : AluDest) (ra rb : Reg) : Word :=
  packWord 5#3 dst.flag ra.code rb.code ((Switch.aluTable.codeOf op).getD 0#6)

/-- Format X with the address register in its field (R98; switch `MEM_ADDR_FIELD`). -/
def packMemIo (op : BitVec 3) (fl : Bool) (addr data : Reg) : Word :=
  match Switch.memAddrField with
  | .ra => packWord op fl addr.code data.code 0#6
  | .rb => packWord op fl data.code addr.code 0#6

/-- The canonical word of an instruction: its fields, and zero in every unused bit (R106, R110). -/
def encode : Instr → Word
  | .hlt => packWord 0#3 false 0#3 0#3 0#6
  | .nop => packWord 1#3 false 0#3 0#3 0#6
  | .mov rd rs => packWord 2#3 false rs.code rd.code 0#6
  | .movIp rd => packWord 2#3 true 0#3 rd.code 0#6
  | .movFlags rd => packWord 2#3 true 1#3 rd.code 0#6
  | .setl rd imm => packSet (!Switch.setFlagSelectsHigh) rd.code imm
  | .seth rd imm => packSet Switch.setFlagSelectsHigh rd.code imm
  | .cmpS cond rd => packWord 4#3 false cond.bits rd.code 0#6
  | .cmpJ cond rt => packWord 4#3 true cond.bits rt.code 0#6
  | .aluZero dst ra rb => packAlu .zero dst ra rb
  | .aluOne dst ra rb => packAlu .one dst ra rb
  | .aluNegOne dst ra rb => packAlu .negOne dst ra rb
  | .aluA dst ra rb => packAlu .a dst ra rb
  | .aluB dst ra rb => packAlu .b dst ra rb
  | .aluNotA dst ra rb => packAlu .notA dst ra rb
  | .aluNotB dst ra rb => packAlu .notB dst ra rb
  | .aluNegA dst ra rb => packAlu .negA dst ra rb
  | .aluNegB dst ra rb => packAlu .negB dst ra rb
  | .aluAPlus1 dst ra rb => packAlu .aPlus1 dst ra rb
  | .aluBPlus1 dst ra rb => packAlu .bPlus1 dst ra rb
  | .aluAMinus1 dst ra rb => packAlu .aMinus1 dst ra rb
  | .aluBMinus1 dst ra rb => packAlu .bMinus1 dst ra rb
  | .aluAPlusB dst ra rb => packAlu .aPlusB dst ra rb
  | .aluAMinusB dst ra rb => packAlu .aMinusB dst ra rb
  | .aluBMinusA dst ra rb => packAlu .bMinusA dst ra rb
  | .aluAnd dst ra rb => packAlu .and dst ra rb
  | .aluOr dst ra rb => packAlu .or dst ra rb
  | .aluShl dst ra rb => packAlu .shl dst ra rb
  | .aluShr dst ra rb => packAlu .shr dst ra rb
  | .aluXor dst ra rb => packAlu .xor dst ra rb
  | .ld rd rx => packMemIo 6#3 false rx rd
  | .st rx rs => packMemIo 6#3 true rx rs
  | .ioIn rd rx => packMemIo 7#3 false rx rd
  | .ioOut rx rs => packMemIo 7#3 true rx rs

/-- The bits an instruction does not use (R111): a mask with a one in each. -/
def unusedBits : Instr → Word
  | .hlt | .nop => 0x1FFF#16
  | .mov _ _ | .movIp _ | .movFlags _ | .cmpS _ _ | .cmpJ _ _ | .ld _ _ | .st _ _ | .ioIn _ _ | .ioOut _ _ => 0x003F#16
  | .setl _ _ | .seth _ _ => 0x0100#16
  | .aluZero _ _ _ | .aluOne _ _ _ | .aluNegOne _ _ _ | .aluA _ _ _ | .aluB _ _ _ | .aluNotA _ _ _ | .aluNotB _ _ _
  | .aluNegA _ _ _ | .aluNegB _ _ _ | .aluAPlus1 _ _ _ | .aluBPlus1 _ _ _ | .aluAMinus1 _ _ _ | .aluBMinus1 _ _ _
  | .aluAPlusB _ _ _ | .aluAMinusB _ _ _ | .aluBMinusA _ _ _ | .aluAnd _ _ _ | .aluOr _ _ _ | .aluShl _ _ _
  | .aluShr _ _ _ | .aluXor _ _ _ => 0#16

/-- The instruction the decoder reads from the word whose bits are `w`, the table giving `nbits` of them: one 16-bit
word, bits above `nbits` zero (R90). -/
def decodeTableWord (nbits w : Nat) : Option Instr :=
  match decode (BitVec.ofNat 16 (w % 2 ^ nbits)) with
  | .ok i => some i
  | .error _ => none

end Sys2Proof
end

