-- ==== Sys2Proof/Machine/State.lean ====
section
/-!
DEFINITION. The state of the machine as plain data: every piece of state spec/10_state.md R20 gives it, the model's
own two fields, why a step can stop, and the state right after reset.
-/

namespace Sys2Proof.Machine

/-- The eight writable registers (R21). -/
structure Regs where
  a : Word
  b : Word
  c : Word
  d : Word
  p : Word
  q : Word
  bp : Word
  sp : Word
  deriving DecidableEq, Repr

/-- The flags register: zero, negative, overflow (R30). -/
structure Flags where
  z : Bool
  n : Bool
  v : Bool
  deriving DecidableEq, Repr

/-- The two states of an instruction's sequencing (R38, R300). -/
inductive Phase
  | fetch | execute
  deriving DecidableEq, Repr

/-- A sparse array of 16-bit words by 16-bit index: the words that have been written, as (index, word) pairs. The
spec's unit of addressing is the word (20_memory.md R60, R61), so a cell holds one word (log entry 1). -/
abbrev Memory := List (Nat × Word)

/-- The canonical form of a memory: indexes strictly rising, each inside the address space. An index that is not
listed has no definite value (it reads as a free value, log entry 2), so no listed entry can equal it. -/
abbrev Memory.wf (m : Memory) : Prop := m.Pairwise (fun x y => x.1 < y.1) ∧ ∀ cell ∈ m, cell.1 < 65536

structure State where
  /-- the eight writable registers (R21) -/
  regs : Regs
  /-- the program counter, the pseudo-register `IP` (R26) -/
  pc : Word
  /-- the flags register, the pseudo-register `FLAGS` (R30) -/
  flags : Flags
  /-- the halted latch (R33) -/
  halted : Bool
  /-- the working memory: 65536 words (R60) -/
  mem : Memory
  /-- `in[p]`: the input side of the ports, as the host and the devices last drove it (60_exceptions.md R341) -/
  input : Memory
  /-- `out_pending[p]`: the pending half of the double-buffered read path (60_exceptions.md R341) -/
  outPending : Memory
  /-- `out[p]`: the committed half (60_exceptions.md R341) -/
  out : Memory
  /-- the next-instruction register (R38) -/
  ir : Word
  /-- the fetch/execute phase (R38) -/
  phase : Phase
  /-- the bootloader's private counter (R40, 70_reset_and_hazards.md R371) -/
  bootCount : Word
  /-- MODEL's own: the (port, value) pairs the CPU has written since reset, oldest first (60_exceptions.md R349) -/
  outTrace : List (Word × Word)
  /-- MODEL's own: how many free values the run has drawn (log entry 7) -/
  draws : Nat
  deriving DecidableEq, Repr

/-- Why a step stops with a fault. The machine has one (60_exceptions.md R322, R323). -/
inductive Fault
  /-- raised by `executePulse` and by debug injection when the word to execute is reserved (30_encoding.md R120).
  The step writes nothing. Safe against the interpreter, which aborts; the gate backend goes on in a way the spec
  does not give (R122, U1, U2; log entry 20). -/
  | decodeFault (word addr : Word)
  deriving DecidableEq, Repr

/-- Why an operation is refused. Instructions are refused by no meaning of this model; every constructor but the
first is one of the construction-time errors or host misuses of 60_exceptions.md R323 and
93_implementation_defined.md U6, U8, U11, U17, U19. All are safe: the operation gives no result. -/
inductive Refusal
  /-- raised by an arm of `exec` that has no meaning yet (no arm does); safe -/
  | notModelled (mnemonic : String)
  /-- raised by `Netlist.bind` on a sink that is bound (`SinkReboundError`, R251); safe -/
  | sinkRebound
  /-- raised by `Netlist.bindBus` on buses of unequal widths (`WidthMismatchError`, R252); safe -/
  | widthMismatch
  /-- raised by netlist evaluation when a source is met while being evaluated (`CombinationalCycleError`, R253); safe -/
  | combinationalCycle
  /-- raised by netlist evaluation when some sink is not bound exactly once, or a source is not there (R251); safe -/
  | malformedNetlist
  /-- raised by `install` on a device whose ports meet an installed device's (`PortCollisionError`, R342); safe -/
  | portCollision
  /-- raised by `Computer.create` on a ROM longer than 65535 words (70_reset_and_hazards.md R375, U8); safe -/
  | romTooLong
  /-- raised by the run operations of a Computer that was never reset (70_reset_and_hazards.md R385, U6); safe -/
  | neverReset
  /-- raised after a DecodeFault, until `reset()`, by every operation that runs or changes the Computer (60_exceptions.md
  R322, U11); safe -/
  | afterFault
  deriving DecidableEq, Repr

/-- The machine right after `reset()` with an empty ROM (R41, R44; 70_reset_and_hazards.md R375, R380): pc 0, not halted,
phase Fetch, the bootloader's counter equal to the ROM's length, nothing written. Registers, flags and the
next-instruction register are unspecified (R42); their zeros are the model's (log entries 3, 4, 5). -/
def State.reset : State where
  regs := ⟨0, 0, 0, 0, 0, 0, 0, 0⟩
  pc := 0
  flags := ⟨false, false, false⟩
  halted := false
  mem := []
  input := []
  outPending := []
  out := []
  ir := 0
  phase := .fetch
  bootCount := 0
  outTrace := []
  draws := 0

end Sys2Proof.Machine
end

