-- ==== Sys2Proof/Machine/Flags.lean ====
section
/-!
DEFINITION. ALU results and the flags they leave (spec/43_alu.md R184 to R186, R211), the value `FLAGS` reads as
(spec/10_state.md R32) and the comparison unit (spec/42_cmp.md R162, R163).
-/

namespace Sys2Proof.Machine

/-- What an ALU operation produces: the 16-bit result `r` and the overflow bit `v` (R181). -/
structure AluResult where
  r : Word
  v : Bool
  deriving DecidableEq, Repr

/-- An addition-class operation: the mathematical value of its reference function, reduced modulo `2^16` (R211,
R213), with overflow when the value is outside the signed range (R186). -/
def arithResult (x : Int) : AluResult := ⟨BitVec.ofInt 16 x, outOfSignedRange x⟩

/-- An operation that is not addition-class: its overflow is 0 (R185, R186). -/
def logicResult (r : Word) : AluResult := ⟨r, false⟩

/-- The flags an ALU instruction writes: `Z` and `N` from the final result, `V` its overflow bit (R184, R186). -/
def aluFlags (res : AluResult) : Flags := ⟨res.r == 0, res.r.msb, res.v⟩

/-- One flag at a bit position of a word (R32). -/
def flagAt (b : Bool) (pos : Nat) : Word := (BitVec.ofBool b).setWidth 16 <<< pos

/-- The value `FLAGS` reads as: `zext_16({Z, N, V})` (R32; switch `FLAGS_LAYOUT`). -/
def flagsWord (f : Flags) : Word :=
  flagAt f.z Switch.flagsLayout.z ||| flagAt f.n Switch.flagsLayout.n ||| flagAt f.v Switch.flagsLayout.v

/-- `equal = Z` (R163). -/
def Flags.equal (f : Flags) : Bool := f.z
/-- `less = (not Z) and (N xor V)` (R163). -/
def Flags.less (f : Flags) : Bool := !f.z && (f.n ^^ f.v)
/-- `greater = (not Z) and not (N xor V)` (R163). -/
def Flags.greater (f : Flags) : Bool := !f.z && !(f.n ^^ f.v)

/-- `cond_true(cond)`: the condition against the flags register (R163). -/
def condTrue (c : Cond) (f : Flags) : Bool :=
  (c.equal && f.equal) || (c.less && f.less) || (c.greater && f.greater)

/-- `shouldJump(c, d)`: the ground-truth predicate over a mathematical integer (R162). -/
def shouldJump (c : Cond) (d : Int) : Bool :=
  (c.equal && decide (d = 0)) || (c.less && decide (d < 0)) || (c.greater && decide (d > 0))

end Sys2Proof.Machine
end

