-- ==== Sys2Proof/Machine/Operands.lean ====
section
/-!
DEFINITION. The operand forms: the register file (spec/10_state.md R21, R23), the byte SET replaces (spec/41_mov_set.md
R146), the shifts (spec/43_alu.md R208, R209) and the boolean CMP writes (spec/42_cmp.md R165).
-/

namespace Sys2Proof.Machine

/-- `x[i]`: read of a writable register (R11, R21). -/
def Regs.get (x : Regs) : Reg → Word
  | .a => x.a
  | .b => x.b
  | .c => x.c
  | .d => x.d
  | .p => x.p
  | .q => x.q
  | .bp => x.bp
  | .sp => x.sp

/-- `x[i] <- v`: write of a writable register (R11, R21). -/
def Regs.set (x : Regs) (r : Reg) (v : Word) : Regs :=
  match r with
  | .a => { x with a := v }
  | .b => { x with b := v }
  | .c => { x with c := v }
  | .d => { x with d := v }
  | .p => { x with p := v }
  | .q => { x with q := v }
  | .bp => { x with bp := v }
  | .sp => { x with sp := v }

/-- `{old[15:8], imm8}`: SETL's new value (R146). With `SET_KEEPS_OTHER_BYTE` off the other byte would be zero (log
entry 13). -/
def setLowByte (old : Word) (imm : BitVec 8) : Word :=
  (if Switch.setKeepsOtherByte then old.extractLsb' 8 8 else 0#8) ++ imm

/-- `{imm8, old[7:0]}`: SETH's new value (R146). -/
def setHighByte (old : Word) (imm : BitVec 8) : Word :=
  imm ++ (if Switch.setKeepsOtherByte then old.extractLsb' 0 8 else 0#8)

/-- `zext_16` of the 1-bit boolean of CMP's compute mode (R165). -/
def boolWord (b : Bool) : Word := if b then 1 else 0

/-- `{a[14:0], 0}` (R208). -/
def shiftLeftOne (a : Word) : Word := a <<< (1 : Nat)

/-- `{0, a[15:1]}` (R209; switch `SHIFT_RIGHT_ARITHMETIC`). -/
def shiftRightOne (a : Word) : Word :=
  if Switch.shiftRightArithmetic then a.sshiftRight 1 else a >>> (1 : Nat)

end Sys2Proof.Machine
end

