-- ==== Sys2Proof/Machine/Ops.lean ====
section
/-!
DEFINITION. The named operations over memory, ports and registers that every meaning is made of (spec/00_scope.md R11).
There is no exception entry and no return from one: the machine has no trap mechanism (spec/60_exceptions.md R320,
R327).
-/

namespace Sys2Proof.Machine

/-! ## Sparse words -/

/-- The word listed at an index, if one is. -/
def Memory.cell (m : Memory) (i : Nat) : Option Word :=
  match m with
  | [] => none
  | (j, w) :: rest => if j = i then some w else Memory.cell rest i

/-- The memory with a word written at an index; indexes stay strictly rising. -/
def Memory.put (m : Memory) (i : Nat) (v : Word) : Memory :=
  match m with
  | [] => [(i, v)]
  | (j, w) :: rest =>
    if i < j then (i, v) :: (j, w) :: rest
    else if i = j then (i, v) :: rest
    else (j, w) :: Memory.put rest i v

/-- The words of a list written at consecutive indexes from `i` on. -/
def Memory.putAll (m : Memory) (i : Nat) : List Word → Memory
  | [] => m
  | w :: ws => Memory.putAll (m.put i w) (i + 1) ws

/-! ## Registers, flags, program counter -/

/-- `x[r]` (R11). -/
def State.reg (s : State) (r : Reg) : Word := s.regs.get r

/-- `x[r] <- v` (R11, R24). -/
def State.setReg (s : State) (r : Reg) (v : Word) : State := { s with regs := s.regs.set r v }

/-- `flags <- (z, n, v)` (R11, R31). -/
def State.setFlags (s : State) (f : Flags) : State := { s with flags := f }

/-- `pc <- target ; halted <- 0` (R27, R33). -/
def State.goto (s : State) (target : Word) : State := { s with pc := target, halted := false }

/-- `halted <- 0 ; pc <- pc + 1`, how every instruction but HLT and a taken jump ends (R27, R28, R33). -/
def State.advance (s : State) : State := s.goto (s.pc + 1)

/-- `halted <- 1 ; pc <- pc + 1`, how HLT ends (40_hlt_nop.md R131). -/
def State.halt (s : State) : State := { s with pc := s.pc + 1, halted := true }

/-! ## Working memory -/

/-- `MemRead(a, 1)`: the last word written, or the unspecified initial value (20_memory.md R69; log entry 2). -/
def State.memRead (s : State) (a : Word) : Word := (s.mem.cell a.toNat).getD (Config.unwrittenWord a)

/-- `MemWrite(a, 1, v)` (20_memory.md R69). -/
def State.memWrite (s : State) (a v : Word) : State := { s with mem := s.mem.put a.toNat v }

/-! ## Ports -/

/-- `IoRead(p)`: the input side of a port, a free value where neither host nor device has driven it (20_memory.md R72;
log entry 8). -/
def State.ioRead (s : State) (p : Word) : Word := (s.input.cell p.toNat).getD (Config.undrivenInput s.draws p)

/-- An IO read happened: the next free value will be another (log entry 7). -/
def State.drawn (s : State) : State := { s with draws := s.draws + 1 }

/-- The first half of `IoWrite(p, v)`: the pending half of the port's buffer is set and the pair recorded
(20_memory.md R73, 60_exceptions.md R341, R349). -/
def State.latchOutput (s : State) (p v : Word) : State :=
  { s with outPending := s.outPending.put p.toNat v, outTrace := s.outTrace ++ [(p, v)] }

/-- The second half: the pending value becomes the committed output (60_exceptions.md R344). -/
def State.commitOutput (s : State) (p : Word) : State :=
  { s with out := match s.outPending.cell p.toNat with
      | some v => s.out.put p.toNat v
      | none => s.out }

/-- `IoWrite(p, v)`, whole: committed at the end of the Execute edge, after every device's `update()` of that edge
(20_memory.md R73, 60_exceptions.md R344). -/
def State.ioWrite (s : State) (p v : Word) : State := (s.latchOutput p v).commitOutput p

/-- `readOutput(port)`: the committed output, a free value if the CPU has written none (60_exceptions.md R346). -/
def State.readOutput (s : State) (p : Word) : Word := (s.out.cell p.toNat).getD (Config.unwrittenOutput p)

/-- `writeInput(port, value)` (60_exceptions.md R347). -/
def State.writeInput (s : State) (p v : Word) : State := { s with input := s.input.put p.toNat v }

/-! ## Sequencing -/

/-- The Fetch pulse: `ir <- mem[pc]`, `phase <- Execute`, nothing else changes (47_gate_level_engine.md R300). -/
def fetchPulse (s : State) : State := { s with ir := s.memRead s.pc, phase := .execute }

/-- The end of the Execute pulse: `phase <- Fetch` (47_gate_level_engine.md R300). -/
def backToFetch (s : State) : State := { s with phase := .fetch }

/-- The end of the Execute pulse, on an outcome: a fault changes nothing (60_exceptions.md R322). -/
def endExecute (o : Host.Outcome State Fault Refusal) : Host.Outcome State Fault Refusal :=
  match o with
  | .next s => .next (backToFetch s)
  | .fault f => .fault f
  | .refused r => .refused r

/-- The state with an instruction word placed where the next step fetches it (log entry 6). -/
def placeFetchWord (s : State) (w : Word) : State := { s with mem := s.mem.put s.pc.toNat w, phase := .fetch }

end Sys2Proof.Machine
end

