-- ==== Sys2Proof/Machine/Alu.lean ====
section
/-!
DEFINITION. The 21 rows of the ALU instruction (spec/43_alu.md): the reference function of each operation, computed on
mathematical integers for the addition-class ones (R211, R213), and the instruction that runs it (R181).
-/

namespace Sys2Proof.Machine

/-- The shared part of every ALU instruction: both operands are read before anything is written, the result goes to
`P` or `Q`, all three flags are written, `halted <- 0`, `pc <- pc + 1` (R181, R24, R31). -/
def aluStep (f : Word → Word → AluResult) (dst : AluDest) (ra rb : Reg) (s : State) : State :=
  ((s.setReg dst.reg (f (s.reg ra) (s.reg rb)).r).setFlags (aluFlags (f (s.reg ra) (s.reg rb)))).advance

/-! ## Reference functions (R183) -/

/-- `ZERO` (R190). -/
def aluZero (_ _ : Word) : AluResult := arithResult 0

/-- `ONE` (R191). -/
def aluOne (_ _ : Word) : AluResult := arithResult 1

/-- `NEG_ONE` (R192). -/
def aluNegOne (_ _ : Word) : AluResult := arithResult (-1)

/-- `A` (R193). -/
def aluA (a _ : Word) : AluResult := logicResult a

/-- `B` (R194). -/
def aluB (_ b : Word) : AluResult := logicResult b

/-- `NOT_A` (R195). -/
def aluNotA (a _ : Word) : AluResult := logicResult (~~~a)

/-- `NOT_B` (R196). -/
def aluNotB (_ b : Word) : AluResult := logicResult (~~~b)

/-- `NEG_A` (R197). -/
def aluNegA (a _ : Word) : AluResult := arithResult (-a.signed)

/-- `NEG_B` (R198). -/
def aluNegB (_ b : Word) : AluResult := arithResult (-b.signed)

/-- `A_PLUS_1` (R199). -/
def aluAPlus1 (a _ : Word) : AluResult := arithResult (a.signed + 1)

/-- `B_PLUS_1` (R200). -/
def aluBPlus1 (_ b : Word) : AluResult := arithResult (b.signed + 1)

/-- `A_MINUS_1` (R201). -/
def aluAMinus1 (a _ : Word) : AluResult := arithResult (a.signed - 1)

/-- `B_MINUS_1` (R202). -/
def aluBMinus1 (_ b : Word) : AluResult := arithResult (b.signed - 1)

/-- `A_PLUS_B` (R203). -/
def aluAPlusB (a b : Word) : AluResult := arithResult (a.signed + b.signed)

/-- `A_MINUS_B` (R204). -/
def aluAMinusB (a b : Word) : AluResult := arithResult (a.signed - b.signed)

/-- `B_MINUS_A` (R205). -/
def aluBMinusA (a b : Word) : AluResult := arithResult (b.signed - a.signed)

/-- `AND` (R206). -/
def aluAnd (a b : Word) : AluResult := logicResult (a &&& b)

/-- `OR` (R207). -/
def aluOr (a b : Word) : AluResult := logicResult (a ||| b)

/-- `SHL` (R208). -/
def aluShl (a _ : Word) : AluResult := logicResult (shiftLeftOne a)

/-- `SHR` (R209). -/
def aluShr (a _ : Word) : AluResult := logicResult (shiftRightOne a)

/-- `XOR` (R210). -/
def aluXor (a b : Word) : AluResult := logicResult (a ^^^ b)

/-- The reference function of an operation: the ground truth the gate ALU must match (R180, R213). -/
def aluReference : AluOp → Word → Word → AluResult
  | .zero => aluZero
  | .one => aluOne
  | .negOne => aluNegOne
  | .a => aluA
  | .b => aluB
  | .notA => aluNotA
  | .notB => aluNotB
  | .negA => aluNegA
  | .negB => aluNegB
  | .aPlus1 => aluAPlus1
  | .bPlus1 => aluBPlus1
  | .aMinus1 => aluAMinus1
  | .bMinus1 => aluBMinus1
  | .aPlusB => aluAPlusB
  | .aMinusB => aluAMinusB
  | .bMinusA => aluBMinusA
  | .and => aluAnd
  | .or => aluOr
  | .shl => aluShl
  | .shr => aluShr
  | .xor => aluXor

/-! ## Instructions (R181) -/

/-- ALU.ZERO (R181, R190). -/
def execAluZero (dst : AluDest) (ra rb : Reg) (s : State) : Host.Outcome State Fault Refusal :=
  .next (aluStep aluZero dst ra rb s)

/-- ALU.ONE (R181, R191). -/
def execAluOne (dst : AluDest) (ra rb : Reg) (s : State) : Host.Outcome State Fault Refusal :=
  .next (aluStep aluOne dst ra rb s)

/-- ALU.NEG_ONE (R181, R192). -/
def execAluNegOne (dst : AluDest) (ra rb : Reg) (s : State) : Host.Outcome State Fault Refusal :=
  .next (aluStep aluNegOne dst ra rb s)

/-- ALU.A (R181, R193). -/
def execAluA (dst : AluDest) (ra rb : Reg) (s : State) : Host.Outcome State Fault Refusal :=
  .next (aluStep aluA dst ra rb s)

/-- ALU.B (R181, R194). -/
def execAluB (dst : AluDest) (ra rb : Reg) (s : State) : Host.Outcome State Fault Refusal :=
  .next (aluStep aluB dst ra rb s)

/-- ALU.NOT_A (R181, R195). -/
def execAluNotA (dst : AluDest) (ra rb : Reg) (s : State) : Host.Outcome State Fault Refusal :=
  .next (aluStep aluNotA dst ra rb s)

/-- ALU.NOT_B (R181, R196). -/
def execAluNotB (dst : AluDest) (ra rb : Reg) (s : State) : Host.Outcome State Fault Refusal :=
  .next (aluStep aluNotB dst ra rb s)

/-- ALU.NEG_A (R181, R197). -/
def execAluNegA (dst : AluDest) (ra rb : Reg) (s : State) : Host.Outcome State Fault Refusal :=
  .next (aluStep aluNegA dst ra rb s)

/-- ALU.NEG_B (R181, R198). -/
def execAluNegB (dst : AluDest) (ra rb : Reg) (s : State) : Host.Outcome State Fault Refusal :=
  .next (aluStep aluNegB dst ra rb s)

/-- ALU.A_PLUS_1 (R181, R199). -/
def execAluAPlus1 (dst : AluDest) (ra rb : Reg) (s : State) : Host.Outcome State Fault Refusal :=
  .next (aluStep aluAPlus1 dst ra rb s)

/-- ALU.B_PLUS_1 (R181, R200). -/
def execAluBPlus1 (dst : AluDest) (ra rb : Reg) (s : State) : Host.Outcome State Fault Refusal :=
  .next (aluStep aluBPlus1 dst ra rb s)

/-- ALU.A_MINUS_1 (R181, R201). -/
def execAluAMinus1 (dst : AluDest) (ra rb : Reg) (s : State) : Host.Outcome State Fault Refusal :=
  .next (aluStep aluAMinus1 dst ra rb s)

/-- ALU.B_MINUS_1 (R181, R202). -/
def execAluBMinus1 (dst : AluDest) (ra rb : Reg) (s : State) : Host.Outcome State Fault Refusal :=
  .next (aluStep aluBMinus1 dst ra rb s)

/-- ALU.A_PLUS_B (R181, R203). -/
def execAluAPlusB (dst : AluDest) (ra rb : Reg) (s : State) : Host.Outcome State Fault Refusal :=
  .next (aluStep aluAPlusB dst ra rb s)

/-- ALU.A_MINUS_B (R181, R204). -/
def execAluAMinusB (dst : AluDest) (ra rb : Reg) (s : State) : Host.Outcome State Fault Refusal :=
  .next (aluStep aluAMinusB dst ra rb s)

/-- ALU.B_MINUS_A (R181, R205). -/
def execAluBMinusA (dst : AluDest) (ra rb : Reg) (s : State) : Host.Outcome State Fault Refusal :=
  .next (aluStep aluBMinusA dst ra rb s)

/-- ALU.AND (R181, R206). -/
def execAluAnd (dst : AluDest) (ra rb : Reg) (s : State) : Host.Outcome State Fault Refusal :=
  .next (aluStep aluAnd dst ra rb s)

/-- ALU.OR (R181, R207). -/
def execAluOr (dst : AluDest) (ra rb : Reg) (s : State) : Host.Outcome State Fault Refusal :=
  .next (aluStep aluOr dst ra rb s)

/-- ALU.SHL (R181, R208). -/
def execAluShl (dst : AluDest) (ra rb : Reg) (s : State) : Host.Outcome State Fault Refusal :=
  .next (aluStep aluShl dst ra rb s)

/-- ALU.SHR (R181, R209). -/
def execAluShr (dst : AluDest) (ra rb : Reg) (s : State) : Host.Outcome State Fault Refusal :=
  .next (aluStep aluShr dst ra rb s)

/-- ALU.XOR (R181, R210). -/
def execAluXor (dst : AluDest) (ra rb : Reg) (s : State) : Host.Outcome State Fault Refusal :=
  .next (aluStep aluXor dst ra rb s)

end Sys2Proof.Machine
end

