-- ==== Sys2Proof/Machine/Cmp.lean ====
section
/-!
DEFINITION. CMP in its two modes (spec/42_cmp.md).
-/

namespace Sys2Proof.Machine

/-- CMP in compute mode (R165). -/
def execCmpS (cond : Cond) (rd : Reg) (s : State) : Host.Outcome State Fault Refusal :=
  .next (s.setReg rd (boolWord (condTrue cond s.flags))).advance

/-- CMP in jump mode (R164). -/
def execCmpJ (cond : Cond) (rt : Reg) (s : State) : Host.Outcome State Fault Refusal :=
  .next (if condTrue cond s.flags then s.goto (s.reg rt) else s.advance)

end Sys2Proof.Machine
end

