-- ==== Sys2Proof/Machine/Control.lean ====
section
/-!
DEFINITION. HLT and NOP (spec/40_hlt_nop.md).
-/

namespace Sys2Proof.Machine

/-- HLT (R131). -/
def execHlt (s : State) : Host.Outcome State Fault Refusal := .next s.halt

/-- NOP (R132). -/
def execNop (s : State) : Host.Outcome State Fault Refusal := .next s.advance

end Sys2Proof.Machine
end

