-- ==== Sys2Proof/Machine/MemIo.lean ====
section
/-!
DEFINITION. MEM and IO (spec/44_mem_io.md).
-/

namespace Sys2Proof.Machine

/-- LD (R232). -/
def execLd (rd rx : Reg) (s : State) : Host.Outcome State Fault Refusal :=
  .next (s.setReg rd (s.memRead (s.reg rx))).advance

/-- ST (R233). -/
def execSt (rx rs : Reg) (s : State) : Host.Outcome State Fault Refusal :=
  .next (s.memWrite (s.reg rx) (s.reg rs)).advance

/-- IN (R234). -/
def execIn (rd rx : Reg) (s : State) : Host.Outcome State Fault Refusal :=
  .next (s.drawn.setReg rd (s.ioRead (s.reg rx))).advance

/-- OUT (R235). -/
def execOut (rx rs : Reg) (s : State) : Host.Outcome State Fault Refusal :=
  .next (s.ioWrite (s.reg rx) (s.reg rs)).advance

end Sys2Proof.Machine
end

