-- ==== Sys2Proof/Machine/MovSet.lean ====
section
/-!
DEFINITION. MOV and SET (spec/41_mov_set.md).
-/

namespace Sys2Proof.Machine

/-- MOV from a writable register (R141). -/
def execMov (rd rs : Reg) (s : State) : Host.Outcome State Fault Refusal :=
  .next (s.setReg rd (s.reg rs)).advance

/-- MOV from `IP`: the address of this MOV (R142; switch `IP_READ_OFFSET`). -/
def execMovIp (rd : Reg) (s : State) : Host.Outcome State Fault Refusal :=
  .next (s.setReg rd (s.pc + Switch.ipReadOffset)).advance

/-- MOV from `FLAGS` (R143). -/
def execMovFlags (rd : Reg) (s : State) : Host.Outcome State Fault Refusal :=
  .next (s.setReg rd (flagsWord s.flags)).advance

/-- SETL (R146). -/
def execSetl (rd : Reg) (imm : BitVec 8) (s : State) : Host.Outcome State Fault Refusal :=
  .next (s.setReg rd (setLowByte (s.reg rd) imm)).advance

/-- SETH (R146). -/
def execSeth (rd : Reg) (imm : BitVec 8) (s : State) : Host.Outcome State Fault Refusal :=
  .next (s.setReg rd (setHighByte (s.reg rd) imm)).advance

end Sys2Proof.Machine
end

