-- ==== Sys2Proof/Machine/Dispatch.lean ====
section
/-!
DEFINITION. exec: one arm per instruction, each one call of its meaning.
-/

namespace Sys2Proof.Machine

def exec (i : Instr) (s : State) : Host.Outcome State Fault Refusal :=
  match i with
  | .hlt => Sys2Proof.Machine.execHlt s
  | .nop => Sys2Proof.Machine.execNop s
  | .mov rd rs => Sys2Proof.Machine.execMov rd rs s
  | .movIp rd => Sys2Proof.Machine.execMovIp rd s
  | .movFlags rd => Sys2Proof.Machine.execMovFlags rd s
  | .setl rd imm => Sys2Proof.Machine.execSetl rd imm s
  | .seth rd imm => Sys2Proof.Machine.execSeth rd imm s
  | .cmpS cond rd => Sys2Proof.Machine.execCmpS cond rd s
  | .cmpJ cond rt => Sys2Proof.Machine.execCmpJ cond rt s
  | .aluZero dst ra rb => Sys2Proof.Machine.execAluZero dst ra rb s
  | .aluOne dst ra rb => Sys2Proof.Machine.execAluOne dst ra rb s
  | .aluNegOne dst ra rb => Sys2Proof.Machine.execAluNegOne dst ra rb s
  | .aluA dst ra rb => Sys2Proof.Machine.execAluA dst ra rb s
  | .aluB dst ra rb => Sys2Proof.Machine.execAluB dst ra rb s
  | .aluNotA dst ra rb => Sys2Proof.Machine.execAluNotA dst ra rb s
  | .aluNotB dst ra rb => Sys2Proof.Machine.execAluNotB dst ra rb s
  | .aluNegA dst ra rb => Sys2Proof.Machine.execAluNegA dst ra rb s
  | .aluNegB dst ra rb => Sys2Proof.Machine.execAluNegB dst ra rb s
  | .aluAPlus1 dst ra rb => Sys2Proof.Machine.execAluAPlus1 dst ra rb s
  | .aluBPlus1 dst ra rb => Sys2Proof.Machine.execAluBPlus1 dst ra rb s
  | .aluAMinus1 dst ra rb => Sys2Proof.Machine.execAluAMinus1 dst ra rb s
  | .aluBMinus1 dst ra rb => Sys2Proof.Machine.execAluBMinus1 dst ra rb s
  | .aluAPlusB dst ra rb => Sys2Proof.Machine.execAluAPlusB dst ra rb s
  | .aluAMinusB dst ra rb => Sys2Proof.Machine.execAluAMinusB dst ra rb s
  | .aluBMinusA dst ra rb => Sys2Proof.Machine.execAluBMinusA dst ra rb s
  | .aluAnd dst ra rb => Sys2Proof.Machine.execAluAnd dst ra rb s
  | .aluOr dst ra rb => Sys2Proof.Machine.execAluOr dst ra rb s
  | .aluShl dst ra rb => Sys2Proof.Machine.execAluShl dst ra rb s
  | .aluShr dst ra rb => Sys2Proof.Machine.execAluShr dst ra rb s
  | .aluXor dst ra rb => Sys2Proof.Machine.execAluXor dst ra rb s
  | .ld rd rx => Sys2Proof.Machine.execLd rd rx s
  | .st rx rs => Sys2Proof.Machine.execSt rx rs s
  | .ioIn rd rx => Sys2Proof.Machine.execIn rd rx s
  | .ioOut rx rs => Sys2Proof.Machine.execOut rx rs s

end Sys2Proof.Machine
end

