-- ==== Sys2Proof/Machine/Pulses.lean ====
section
/-!
DEFINITION. The Execute pulse and the execution of one instruction word (spec/47_gate_level_engine.md R300,
spec/60_exceptions.md R322, R356).
-/

namespace Sys2Proof.Machine

/-- A word executed with the current state: decoded, then its instruction's rule; a reserved word raises DecodeFault and
nothing is written (30_encoding.md R122, 60_exceptions.md R322, R356; log entry 20). -/
def executeWord (w : Word) (s : State) : Host.Outcome State Fault Refusal :=
  match decode w with
  | .ok i => exec i s
  | .error _ => .fault (.decodeFault w s.pc)

/-- The Execute pulse: the word the Fetch pulse loaded is executed, and the phase is Fetch again (R300). -/
def executePulse (s : State) : Host.Outcome State Fault Refusal := endExecute (executeWord s.ir s)

/-- One instruction from a state's phase on: both pulses, or the one that is left (R300; log entry 23). -/
def runInstruction (s : State) : Host.Outcome State Fault Refusal :=
  match s.phase with
  | .fetch => executePulse (fetchPulse s)
  | .execute => executePulse s

end Sys2Proof.Machine
end

