-- ==== Sys2Proof/Machine/Step.lean ====
section
/-!
DEFINITION. One step is one instruction: the Fetch pulse, then the Execute pulse (spec/47_gate_level_engine.md R300,
spec/70_reset_and_hazards.md R386).
-/

namespace Sys2Proof.Machine

/-- `runNextInstruction()` on a machine that has been reset (R386). It does not look at `halted` first. -/
def step (s : State) : Host.Outcome State Fault Refusal := runInstruction s

/-- The state with an instruction's bits stored where `step` fetches its next instruction (log entry 6). -/
def State.withFetchWord (s : State) (nbits w : Nat) : State := placeFetchWord s (BitVec.ofNat 16 (w % 2 ^ nbits))

end Sys2Proof.Machine
end

