-- ==== Sys2Proof/Machine/Gates.lean ====
section
/-!
DEFINITION. The combinational primitives of the gate backend, every gate composed from NAND (spec/47_gate_level_engine.md
R252, R260 to R273).
-/

namespace Sys2Proof.Machine

/-! ## Gates -/

/-- NAND, "the only primitive gate" (R260). -/
def nandGate (a b : Bool) : Bool := !(a && b)
/-- `NOT(a) = NAND(a, a)` (R261). -/
def notGate (a : Bool) : Bool := nandGate a a
/-- `AND = NOT ∘ NAND` (R262). -/
def andGate (a b : Bool) : Bool := notGate (nandGate a b)
/-- `OR = NAND ∘ (NOT, NOT)` (R263). -/
def orGate (a b : Bool) : Bool := nandGate (notGate a) (notGate b)
/-- `NOR = NOT ∘ OR` (R264). -/
def norGate (a b : Bool) : Bool := notGate (orGate a b)
/-- `XOR(a, b) = AND(OR(a, b), NAND(a, b))` (R265). -/
def xorGate (a b : Bool) : Bool := andGate (orGate a b) (nandGate a b)
/-- `XNOR = NOT ∘ XOR` (R266). -/
def xnorGate (a b : Bool) : Bool := notGate (xorGate a b)

/-! ## Buses -/

/-- A bus: an ordered sequence of signals, most-significant bit first (R252). -/
abbrev Bus := List Bool

/-- The bus that carries a number: element `k` is bit `W - 1 - k` (R252). -/
def busOf {n : Nat} (w : BitVec n) : Bus := (List.range n).map w.getMsbD

/-- The number a bus carries. -/
def busValue (b : Bus) : Nat := b.foldl (fun acc x => 2 * acc + x.toNat) 0

/-- The 16-bit word a bus carries. -/
def wordOfBus (b : Bus) : Word := BitVec.ofNat 16 (busValue b)

/-- A bus of zeros as wide as another. -/
def zerosLike (b : Bus) : Bus := b.map (fun _ => false)

/-! ## Adders -/

/-- `(sum, carry)` of two bits (R267). -/
def halfAdder (a b : Bool) : Bool × Bool := (xorGate a b, andGate a b)

/-- `(sum, carry-out)` of two bits and a carry-in: two half adders and an OR (R268). -/
def fullAdder (a b carryIn : Bool) : Bool × Bool :=
  let (s1, c1) := halfAdder a b
  let (sum, c2) := halfAdder s1 carryIn
  (sum, orGate c1 c2)

/-- What a word adder gives: the sum bus, and the carries into and out of the top bit, "available for the overflow flag"
(R269). -/
structure AdderOut where
  sum : Bus
  carryIntoTop : Bool
  carryOut : Bool
  deriving DecidableEq, Repr

/-- A chain of full adders from the least significant bit up (R269). -/
def adderChain (carryIn : Bool) : Bus → Bus → AdderOut
  | a :: as, b :: bs =>
    let low := adderChain carryIn as bs
    let (sum, carryOut) := fullAdder a b low.carryOut
    ⟨sum :: low.sum, low.carryOut, carryOut⟩
  | _, _ => ⟨[], carryIn, carryIn⟩

/-- The word adder: a chain whose carry-in of bit 0 is 0 (R269). -/
def wordAdder (a b : Bus) : AdderOut := adderChain false a b

/-! ## Zero detector, selection and routing -/

/-- `IsZero`: the bus bisected into zero detectors of half the width, to a depth that suffices (R270). -/
def isZeroTree : Nat → Bus → Bool
  | 0, b => notGate (b.headD false)
  | depth + 1, b =>
    if b.length ≤ 1 then notGate (b.headD false)
    else andGate (isZeroTree depth (b.take (b.length / 2))) (isZeroTree depth (b.drop (b.length / 2)))

/-- `IsZero(width)` (R270). -/
def isZeroGate (b : Bus) : Bool := isZeroTree b.length b

/-- The one-bit multiplexer `OR(AND(NOT(sel), in0), AND(sel, in1))` (R271). -/
def muxGate (sel in0 in1 : Bool) : Bool := orGate (andGate (notGate sel) in0) (andGate sel in1)

/-- `BusSwitch(width)`: a bank of one-bit muxes sharing a select line, 1 passing the second input (R273, D33). -/
def busSwitch (sel : Bool) (in0 in1 : Bus) : Bus := List.zipWith (muxGate sel) in0 in1

/-- `Mux(addrBits)` over buses: the address, most significant bit first, bisects the inputs (R271). -/
def muxTree : Bus → List Bus → Bus
  | [], inputs => inputs.headD []
  | sel :: rest, inputs =>
    busSwitch sel (muxTree rest (inputs.take (inputs.length / 2))) (muxTree rest (inputs.drop (inputs.length / 2)))

/-- `DMux(addrBits)`: the input routed to the addressed output, 0 on the others (R272). -/
def dmuxTree : Bus → Bool → List Bool
  | [], x => [x]
  | sel :: rest, x => dmuxTree rest (andGate x (notGate sel)) ++ dmuxTree rest (andGate x sel)

end Sys2Proof.Machine
end

