-- ==== Sys2Proof/Machine/GateAlu.lean ====
section
/-!
DEFINITION. The ALU by its control lines: the word-level computation of spec/43_alu.md R182 and R186, and the gate ALU of
spec/47_gate_level_engine.md R290 to R293.
-/

namespace Sys2Proof.Machine

/-- The six named control lines and the two extra control bits (43_alu.md R180, R182). -/
structure AluLines where
  za : Bool
  na : Bool
  zb : Bool
  nb : Bool
  f : Bool
  no : Bool
  /-- the two bits that select an alternate function, `00` the main path (R293) -/
  alt1 : Bool
  alt0 : Bool
  deriving DecidableEq, Repr

/-- The two extra control bits of an operation: 01 shift left, 10 shift right, 11 XOR (R293, D8; log entry 15). -/
def altBits : Option AluOp → Bool × Bool
  | some .shl => (false, true)
  | some .shr => (true, false)
  | some .xor => (true, true)
  | _ => (false, false)

/-- The control lines of a 6-bit code: the six bits in order, most significant first (R182), and the extra bits from the
operation table (R188, R290). -/
def aluLines (code : BitVec 6) : AluLines :=
  let alt := altBits (Switch.aluTable.opOf code)
  ⟨code.getLsbD 5, code.getLsbD 4, code.getLsbD 3, code.getLsbD 2, code.getLsbD 1, code.getLsbD 0, alt.1, alt.2⟩

/-- The overflow of the raw adder: operands of one sign and a sum of the other (R186). -/
def adderOverflow (a2 b2 s : Word) : Bool := a2.msb == b2.msb && s.msb != a2.msb

/-- The main path on words: zero, then complement, each operand; add or and; complement the output; `V = f and
adder_ovf` (R182, R186). -/
def mainPath (l : AluLines) (a b : Word) : AluResult :=
  let a1 := if l.za then 0 else a
  let a2 := if l.na then ~~~a1 else a1
  let b1 := if l.zb then 0 else b
  let b2 := if l.nb then ~~~b1 else b1
  let s := if l.f then a2 + b2 else a2 &&& b2
  ⟨if l.no then ~~~s else s, l.f && adderOverflow a2 b2 (a2 + b2)⟩

/-- The outputs of the gate ALU: the output bus and the three flags (R290). -/
structure GateAluOut where
  out : Bus
  zero : Bool
  negative : Bool
  overflow : Bool
  deriving DecidableEq, Repr

/-- One operand stage: zero, then complement, through bus switches (R290). -/
def operandStage (zero negate : Bool) (b : Bus) : Bus :=
  let z := busSwitch zero b (zerosLike b)
  busSwitch negate z (z.map notGate)

/-- `ALU(width)` from gates (R290 to R293). -/
def gateAlu (l : AluLines) (a b : Bus) : GateAluOut :=
  let a2 := operandStage l.za l.na a
  let b2 := operandStage l.zb l.nb b
  let sum := (wordAdder a2 b2).sum
  let both := List.zipWith andGate a2 b2
  let s := busSwitch l.f both sum
  let main := busSwitch l.no s (s.map notGate)
  let left := a.drop 1 ++ [false]
  let right := andGate Switch.shiftRightArithmetic (a.headD false) :: a.dropLast
  let differ := List.zipWith xorGate a b
  let out := muxTree [l.alt1, l.alt0] [main, left, right, differ]
  let adderOvf := andGate (xnorGate (a2.headD false) (b2.headD false)) (xorGate (sum.headD false) (a2.headD false))
  ⟨out, isZeroGate out, out.headD false, andGate l.f adderOvf⟩

end Sys2Proof.Machine
end

