-- ==== Sys2Proof/Machine/Reset.lean ====
section
/-!
DEFINITION. `reset()` as one transition from any state (spec/70_reset_and_hazards.md R380, spec/10_state.md R41, R42).
-/

namespace Sys2Proof.Machine

/-- What `reset()` leaves unspecified (R42, U4), given as an argument: a statement about reset holds for every value of
it (log entry 34). -/
structure Unspecified where
  regs : Regs
  flags : Flags
  /-- memory at the addresses the ROM does not cover -/
  mem : Memory
  input : Memory
  outPending : Memory
  out : Memory
  ir : Word
  /-- how many clock edges the reset pulse itself takes (70_reset_and_hazards.md R373, U18): only devices see them -/
  pulseEdges : Nat
  /-- the committed outputs the devices observe at the edges of the reset and its load (R42, R378; log entry 36) -/
  outAtLoad : Memory
  deriving DecidableEq, Repr

/-- The unspecified state as the gate backend happens to leave it: what it held (70_reset_and_hazards.md R376), with no device
update at the reset pulse (log entry 26). -/
def Unspecified.kept (s : State) : Unspecified :=
  ⟨s.regs, s.flags, s.mem, s.input, s.outPending, s.out, s.ir, 0, s.out⟩

/-- A state whose unspecified parts are the given ones, as they stand from the reset pulse on; during the load the devices
observe `outAtLoad` (log entry 36). -/
def Unspecified.takenBy (u : Unspecified) (s : State) : State :=
  { s with regs := u.regs, flags := u.flags, mem := u.mem, input := u.input, outPending := u.outPending,
           out := u.outAtLoad, ir := u.ir }

/-- `mem[i] <- ROM[i]`, `pc <- 0`, `halted <- 0`, phase Fetch, the bootloader's counter equal to N; everything else
unspecified (R380, R41, R44). The record of outputs begins anew (log entry 7). -/
def resetWith (rom : List Word) (u : Unspecified) (s : State) : State where
  regs := u.regs
  pc := 0
  flags := u.flags
  halted := false
  mem := u.mem.putAll 0 rom
  input := u.input
  outPending := u.outPending
  out := u.out
  ir := u.ir
  phase := .fetch
  bootCount := BitVec.ofNat 16 rom.length
  outTrace := []
  draws := s.draws

end Sys2Proof.Machine
end

