-- ==== Sys2Proof/Machine/Bootloader.lean ====
section
/-!
DEFINITION. The bootloader, edge by edge (spec/70_reset_and_hazards.md R370 to R379).
-/

namespace Sys2Proof.Machine

/-- `we = not IsZero(bc xor N)` (R372). -/
def bootWriteEnable (rom : List Word) (s : State) : Bool := !(s.bootCount ^^^ BitVec.ofNat 16 rom.length == 0)

/-- `address = bc` (R372). -/
def bootAddress (s : State) : Word := s.bootCount

/-- `data = ROM[bc]`, meaningful only while write-enable is high (R372). -/
def bootData (rom : List Word) (s : State) : Option Word := rom[s.bootCount.toNat]?

/-- `cpu_enable = not we` (R372, R378). -/
def cpuEnabled (rom : List Word) (s : State) : Bool := !bootWriteEnable rom s

/-- The program counter after a bootloader edge: driven by the counter while in bootloader mode, 0 when write-enable
falls (R297, R378; log entry 27). -/
def bootPc (rom : List Word) (s : State) : Word :=
  if s.bootCount + 1 = BitVec.ofNat 16 rom.length then 0 else s.bootCount

/-- The external reset pulse: `bc <- 0`, with what `reset()` establishes besides the load (R373, R297, R380). -/
def resetPulse (s : State) : State :=
  { s with bootCount := 0, pc := 0, halted := false, phase := .fetch, outTrace := [] }

/-- One clock edge of the bootloader: while write-enable is high, one ROM word is written and the counter advances;
then nothing changes (R373). An edge with write-enable high and no ROM word at the counter (a counter above N, possible only
from an unspecified power-on counter) writes nothing and still advances the counter: the model's choice, log entry 38. -/
def bootEdge (rom : List Word) (s : State) : State :=
  if bootWriteEnable rom s then
    match bootData rom s with
    | some w => { s.memWrite (bootAddress s) w with bootCount := s.bootCount + 1, pc := bootPc rom s }
    | none => { s with bootCount := s.bootCount + 1, pc := bootPc rom s }
  else s

/-- A number of clock edges of the bootloader. -/
def bootEdges (rom : List Word) : Nat → State → State
  | 0, s => s
  | k + 1, s => bootEdges rom k (bootEdge rom s)

/-- The load sequence of one `reset()`: the reset pulse, then exactly `len(ROM)` edges (R370). -/
def bootLoad (rom : List Word) (s : State) : State := bootEdges rom rom.length (resetPulse s)

end Sys2Proof.Machine
end

