-- ==== Sys2Proof/Machine/Sequential.lean ====
section
/-!
DEFINITION. The clocked primitives of the gate backend, each in its two phases tick and tock
(spec/47_gate_level_engine.md R255 to R257, R274 to R282).
-/

namespace Sys2Proof.Machine

/-- DFF: one committed bit and one latched bit (R274). -/
structure Dff where
  latched : Bool
  committed : Bool
  deriving DecidableEq, Repr

/-- tick: `latched <- d` (R274). -/
def Dff.tick (c : Dff) (d : Bool) : Dff := { c with latched := d }
/-- tock: `committed <- latched` (R274). -/
def Dff.tock (c : Dff) : Dff := { c with committed := c.latched }

/-- `Register(width)`: a bank of DFFs, most significant first (R275). -/
abbrev Register := List Dff

/-- The register whose cells hold a bus. -/
def Register.holding (b : Bus) : Register := b.map (fun x => ⟨x, x⟩)
/-- The output bus: the committed bits (R275). -/
def Register.out (r : Register) : Bus := r.map Dff.committed
/-- tick: each cell latches the input when write-enable is high, else its own value (R275). -/
def Register.tick (r : Register) (we : Bool) (input : Bus) : Register :=
  List.zipWith (fun c d => c.tick (muxGate we c.committed d)) r input
/-- tock of every cell (R257). -/
def Register.tock (r : Register) : Register := r.map Dff.tock

/-- One pulse of a register seen from outside: `next = if we then in else out` (R275). -/
def registerPulse (we : Bool) (input held : Bus) : Bus := ((Register.holding held).tick we input).tock.out

/-- `Ram(addrBits, width)`: a balanced binary tree of registers (R276, R281). -/
inductive RamTree
  | leaf (r : Register)
  | node (lower upper : RamTree)
  deriving DecidableEq, Repr

/-- A tree of `2^k` registers that hold one value each. -/
def RamTree.filled (init : Bus) : Nat → RamTree
  | 0 => .leaf (Register.holding init)
  | k + 1 => .node (RamTree.filled init k) (RamTree.filled init k)

/-- The read path: the address bits, top first, select through muxes (R276, R281). -/
def RamTree.read : RamTree → Bus → Bus
  | .leaf r, _ => r.out
  | .node lower upper, a :: addr => busSwitch a (lower.read addr) (upper.read addr)
  | .node _ _, [] => []

/-- tick: write-enable is routed to the addressed branch by demuxes, the input goes to both (R276, R281). -/
def RamTree.tick : RamTree → Bus → Bool → Bus → RamTree
  | .leaf r, _, we, input => .leaf (r.tick we input)
  | .node lower upper, a :: addr, we, input =>
    .node (lower.tick addr (andGate we (notGate a)) input) (upper.tick addr (andGate we a) input)
  | .node lower upper, [], _, _ => .node lower upper

/-- tock of every register of the tree (R257). -/
def RamTree.tock : RamTree → RamTree
  | .leaf r => .leaf r.tock
  | .node lower upper => .node lower.tock upper.tock

/-- One pulse of a Ram (R276). -/
def RamTree.pulse (t : RamTree) (addr : Bus) (we : Bool) (input : Bus) : RamTree := (t.tick addr we input).tock

/-- A tree of depth `k` all of whose registers are `width` wide: what `Ram(k, width)` builds (R281). -/
def RamTree.shaped (width : Nat) : Nat → RamTree → Bool
  | 0, .leaf r => r.length == width
  | k + 1, .node lower upper => lower.shaped width k && upper.shaped width k
  | _, _ => false

/-- `VirtualRam`: a flat array keyed by the address value, and the write sampled on tick (R282). -/
structure VirtualRam where
  cells : Memory
  sampled : Option (Nat × Word)
  deriving DecidableEq, Repr

/-- The read path: the word at the address value, following the address at once (R282); a cell nothing has written reads as
the given free value of its address. -/
def VirtualRam.read (m : VirtualRam) (unwritten : Word → Word) (addr : Bus) : Bus :=
  busOf ((m.cells.cell (busValue addr)).getD (unwritten (wordOfBus addr)))

/-- tick: sample the address, the input and write-enable (R282). -/
def VirtualRam.tick (m : VirtualRam) (addr : Bus) (we : Bool) (input : Bus) : VirtualRam :=
  { m with sampled := if we then some (busValue addr, wordOfBus input) else none }

/-- tock: commit the one write (R282). -/
def VirtualRam.tock (m : VirtualRam) : VirtualRam :=
  match m.sampled with
  | some (i, v) => ⟨m.cells.put i v, none⟩
  | none => m

/-- One pulse of a VirtualRam (R282). -/
def VirtualRam.pulse (m : VirtualRam) (addr : Bus) (we : Bool) (input : Bus) : VirtualRam := (m.tick addr we input).tock

end Sys2Proof.Machine
end

