-- ==== Sys2Proof/Machine/GateBoot.lean ====
section
/-!
DEFINITION. The gate backend's bootloader: comparator, counter, program counter and memory port made of the primitives its
rules name (spec/70_reset_and_hazards.md R371 to R373, R377; spec/47_gate_level_engine.md R297, R302).
-/

namespace Sys2Proof.Machine

/-- A bus of exclusive ors. -/
def xorBus (a b : Bus) : Bus := List.zipWith xorGate a b

/-- `len(ROM)` as the constant bus the bootloader is given (R371). -/
def romLengthBus (rom : List Word) : Bus := busOf (BitVec.ofNat 16 rom.length)

/-- `we = not IsZero(bc xor N)`, from gates (R372). -/
def gateBootWriteEnable (rom : List Word) (s : State) : Bool :=
  notGate (isZeroGate (xorBus (busOf s.bootCount) (romLengthBus rom)))

/-- `cpu_enable = not we` (R372). -/
def gateCpuEnabled (rom : List Word) (s : State) : Bool := notGate (gateBootWriteEnable rom s)

/-- The memory after a pulse of the bootloader's write through the memory's one write port (R377). Where the ROM has no word
at the counter the data bus carries nothing and nothing is written (the model's choice, log entry 38). -/
def gateBootMemory (rom : List Word) (s : State) : Memory :=
  match bootData rom s with
  | some w => (VirtualRam.pulse ⟨s.mem, none⟩ (busOf s.bootCount) (gateBootWriteEnable rom s) (busOf w)).cells
  | none => s.mem

/-- One clock edge in bootloader mode: counter and program counter are registers under the bootloader's write-enable, the
program counter taking the counter, and 0 at the edge at which write-enable falls (R373, R297; log entry 27). -/
def gateBootEdge (rom : List Word) (s : State) : State :=
  let count := busOf s.bootCount
  let we := gateBootWriteEnable rom s
  let next := (wordAdder count (busOf (1 : Word))).sum
  let falls := isZeroGate (xorBus next (romLengthBus rom))
  { s with
    mem := gateBootMemory rom s
    bootCount := wordOfBus (registerPulse we next count)
    pc := wordOfBus (registerPulse we (busSwitch falls count (zerosLike count)) (busOf s.pc)) }

end Sys2Proof.Machine
end

