-- ==== Sys2Proof/Machine/GateCpu.lean ====
section
/-!
DEFINITION. The gate backend's CPU as a function of its committed state: decoder, register file, program counter unit,
flags register, comparison unit and two-pulse sequencing (spec/47_gate_level_engine.md R295 to R304). The source gives no
netlist of it (91_not_in_source.md N35); each unit is composed here from the primitives the rules name (log entry 31).
-/

namespace Sys2Proof.Machine

/-- The decoder's outputs: the eight enable lines and the field slices of the instruction bus (R295). -/
structure DecoderLines where
  hlt : Bool
  nop : Bool
  mov : Bool
  set : Bool
  cmp : Bool
  alu : Bool
  mem : Bool
  io : Bool
  fl : Bool
  ra : Bus
  rb : Bus
  aluop : Bus
  imm : Bus
  deriving DecidableEq, Repr

/-- The decoder: a `DMux(3)` on the opcode, its data input the execute-phase enable; the slices are plain sub-buses
(R295, 30_encoding.md R91). -/
def gateDecoder (executing : Bool) (w : Bus) : DecoderLines :=
  let en := dmuxTree (w.take 3) executing
  { hlt := en.getD 0 false, nop := en.getD 1 false, mov := en.getD 2 false, set := en.getD 3 false,
    cmp := en.getD 4 false, alu := en.getD 5 false, mem := en.getD 6 false, io := en.getD 7 false,
    fl := w.getD 3 false, ra := (w.drop 4).take 3, rb := (w.drop 7).take 3, aluop := w.drop 10, imm := w.drop 8 }

/-- The register file's eight output buses, in code order (R296). -/
def registerBuses (x : Regs) : List Bus :=
  [busOf x.a, busOf x.b, busOf x.c, busOf x.d, busOf x.p, busOf x.q, busOf x.bp, busOf x.sp]

/-- The register file after a pulse: one write selection through a `DMux(3)` on the write-enable (R296). -/
def registerFilePulse (x : Regs) (we : Bool) (sel data : Bus) : Regs :=
  let lines := dmuxTree sel we
  let next (k : Nat) (held : Word) : Word := wordOfBus (registerPulse (lines.getD k false) data (busOf held))
  ⟨next 0 x.a, next 1 x.b, next 2 x.c, next 3 x.d, next 4 x.p, next 5 x.q, next 6 x.bp, next 7 x.sp⟩

/-- The comparison unit: equal, less, greater from the flags register, and `cond_true` (R299, 42_cmp.md R163). -/
def comparisonUnit (f : Flags) (cond : Bus) : Bool :=
  let bit (pos : Nat) : Bool := cond.reverse.getD pos false
  let differ := xorGate f.n f.v
  let less := andGate (notGate f.z) differ
  let greater := andGate (notGate f.z) (notGate differ)
  orGate (orGate (andGate (bit Switch.condBitOrder.equal) f.z) (andGate (bit Switch.condBitOrder.less) less))
    (andGate (bit Switch.condBitOrder.greater) greater)

/-- A select line for a one-bit field whose meaning a switch fixes: 1 when the field has the switch's value. -/
def selectLine (field switch : Bool) : Bool := xnorGate field switch

/-- The read selection of the address register of MEM and IO (30_encoding.md R98; switch `MEM_ADDR_FIELD`). -/
def addressField (d : DecoderLines) : Bus :=
  match Switch.memAddrField with
  | .ra => d.ra
  | .rb => d.rb

/-- The read and write selection of the data register of MEM and IO (30_encoding.md R98). -/
def dataField (d : DecoderLines) : Bus :=
  match Switch.memAddrField with
  | .ra => d.rb
  | .rb => d.ra

/-- SET's byte replacement on buses (41_mov_set.md R146). -/
def setUnit (high : Bool) (old imm : Bus) : Bus :=
  let kept := busSwitch Switch.setKeepsOtherByte (zerosLike old) old
  busSwitch high (kept.take 8 ++ imm) (imm ++ kept.drop 8)

/-- The data a register write takes, merged by bus switches under the enable lines (R296). -/
def writeBus (d : DecoderLines) (moved replaced cond result loaded port : Bus) : Bus :=
  let b1 := busSwitch d.mov (zerosLike moved) moved
  let b2 := busSwitch d.set b1 replaced
  let b3 := busSwitch d.cmp b2 cond
  let b4 := busSwitch d.alu b3 result
  let b5 := busSwitch d.mem b4 loaded
  busSwitch d.io b5 port

/-- The written register: `rb` for MOV and CMP, the data register for MEM and IO reads, `ra` for SET, `P` or `Q` for ALU
(R296). -/
def writeSelect (d : DecoderLines) (toQ : Bool) : Bus :=
  let b1 := busSwitch (orGate d.mem d.io) d.rb (dataField d)
  let b2 := busSwitch d.set b1 d.ra
  busSwitch d.alu b2 [true, false, toQ]

/-- The register write-enable: MOV, SET, ALU, and CMP, MEM and IO with `fl = 0` (R296). -/
def writeEnable (d : DecoderLines) : Bool :=
  let readers := andGate (orGate d.cmp (orGate d.mem d.io)) (notGate d.fl)
  orGate (orGate d.mov d.set) (orGate d.alu readers)

/-- The read selection of MOV and of the debug channel: three select bits choose a register, the fourth the program counter
output or the flags (R296). -/
def readSelect (fourth : Bool) (sel : Bus) (x : List Bus) (pcBus flagsBus : Bus) : Bus :=
  busSwitch fourth (muxTree sel x) (busSwitch (sel.getD 2 false) pcBus flagsBus)

/-- The memory's read path (20_memory.md R69). -/
def gateMemRead (s : State) (address : Bus) : Bus := VirtualRam.read ⟨s.mem, none⟩ Config.unwrittenWord address

/-- The read path of the ports' input sides (20_memory.md R72). -/
def gateIoRead (s : State) (port : Bus) : Bus := VirtualRam.read ⟨s.input, none⟩ (Config.undrivenInput s.draws) port

/-- The output side of the ports at an Execute edge: on tick the addressed pending slot takes the value, on tock that slot
is committed (60_exceptions.md R341, R344). The record of outputs is the model's own (log entry 7). -/
def gatePortPulse (s : State) (we : Bool) (port value : Bus) : State :=
  let pending := VirtualRam.pulse ⟨s.outPending, none⟩ port we value
  let committed := VirtualRam.pulse ⟨s.out, none⟩ port we (pending.read Config.unwrittenOutput port)
  { s with
    outPending := pending.cells
    out := committed.cells
    outTrace := if we then s.outTrace ++ [(wordOfBus port, wordOfBus value)] else s.outTrace }

/-- What the execute stage does with the word on its instruction bus: every write of the instruction and the program counter
update, latched from pre-edge state and committed together (R300, R301). -/
def gateExecuteWord (w : Bus) (s : State) : State :=
  let d := gateDecoder true w
  let x := registerBuses s.regs
  let a := muxTree d.ra x
  let b := muxTree d.rb x
  let address := muxTree (addressField d) x
  let data := muxTree (dataField d) x
  let pcRead := (wordAdder (busOf s.pc) (busOf Switch.ipReadOffset)).sum
  let moved := readSelect d.fl d.ra x pcRead (busOf (flagsWord s.flags))
  let replaced := setUnit (selectLine d.fl Switch.setFlagSelectsHigh) a d.imm
  let cond := comparisonUnit s.flags d.ra
  let condBus := List.replicate 15 false ++ [cond]
  let alu := gateAlu (aluLines (BitVec.ofNat 6 (busValue d.aluop))) a b
  let loaded := gateMemRead s address
  let port := gateIoRead s address
  let writeData := writeBus d moved replaced condBus alu.out loaded port
  let sel := writeSelect d (selectLine d.fl Switch.aluDestFlagQ)
  let jump := andGate (andGate d.cmp d.fl) cond
  let pcNext := busSwitch jump (wordAdder (busOf s.pc) (busOf (1 : Word))).sum b
  let mem := VirtualRam.pulse ⟨s.mem, none⟩ address (andGate d.mem d.fl) data
  let t := gatePortPulse s (andGate d.io d.fl) address data
  { t with
    regs := registerFilePulse s.regs (writeEnable d) sel writeData
    pc := wordOfBus (registerPulse true pcNext (busOf s.pc))
    flags := ⟨muxGate d.alu s.flags.z alu.zero, muxGate d.alu s.flags.n alu.negative,
              muxGate d.alu s.flags.v alu.overflow⟩
    halted := d.hlt
    mem := mem.cells
    draws := if andGate d.io (notGate d.fl) then s.draws + 1 else s.draws }

/-- The state change of an Execute pulse on the fetched word (R300). -/
def gateExecute (s : State) : State := { gateExecuteWord (busOf s.ir) s with phase := .fetch }

/-- The state change of a Fetch pulse: the next-instruction register is loaded, nothing else but the phase changes (R300). -/
def gateFetch (s : State) : State :=
  { s with ir := wordOfBus (registerPulse true (gateMemRead s (busOf s.pc)) (busOf s.ir)), phase := .execute }

/-- One clock pulse of the CPU while it is enabled. The gate path rejects no word, but what it does with a reserved one the
spec does not give (30_encoding.md R122, U1, U2): there the model faults (log entry 20). -/
def gatePulse (s : State) : Host.Outcome State Fault Refusal :=
  match s.phase with
  | .fetch => .next (gateFetch s)
  | .execute =>
    match decode s.ir with
    | .ok _ => .next (gateExecute s)
    | .error _ => .fault (.decodeFault s.ir s.pc)

/-- One clock pulse of the whole machine: in bootloader mode the bootloader drives the memory and the CPU is held
disabled, else the CPU runs (R302, 70_reset_and_hazards.md R378). -/
def machinePulse (rom : List Word) (s : State) : Host.Outcome State Fault Refusal :=
  if gateBootWriteEnable rom s then .next (gateBootEdge rom s) else gatePulse s

/-- A number of clock pulses. -/
def machinePulses (rom : List Word) : Nat → State → Host.Outcome State Fault Refusal
  | 0, s => .next s
  | k + 1, s =>
    match machinePulse rom s with
    | .next t => machinePulses rom k t
    | .fault f => .fault f
    | .refused r => .refused r

/-! ## The debug bypass (R303) -/

/-- Mode `11`: the execute stage sees the supplied word in place of the fetched one; next-instruction register and phase stay
as they are (60_exceptions.md R355, R356; log entry 24). A reserved word faults (log entry 20). -/
def gateInject (w : Word) (s : State) : Host.Outcome State Fault Refusal :=
  match decode w with
  | .ok _ => .next (gateExecuteWord (busOf w) s)
  | .error _ => .fault (.decodeFault w s.pc)

/-- Mode `01`: the read selection on the committed state (60_exceptions.md R352). -/
def gateDebugRegister (r : RegId) (s : State) : Word :=
  let select (fourth : Bool) (sel : Bus) : Word :=
    wordOfBus (readSelect fourth sel (registerBuses s.regs) (busOf s.pc) (busOf (flagsWord s.flags)))
  match r with
  | .writable r => select false (busOf r.code)
  | .ip => select true (busOf 0#3)
  | .flags => select true (busOf 1#3)

/-- Mode `10`: the memory's read path (60_exceptions.md R353). -/
def gateDebugMemory (addr : Word) (s : State) : Word := wordOfBus (gateMemRead s (busOf addr))

end Sys2Proof.Machine
end

