-- ==== Sys2Proof/Machine/Backend.lean ====
section
/-!
DEFINITION. The two realisations of the machine behind one interface (spec/00_scope.md R1, R3;
spec/47_gate_level_engine.md R306; spec/70_reset_and_hazards.md R383).
-/

namespace Sys2Proof.Machine

/-- The two realisations (00_scope.md R1). -/
inductive Backend
  | interpreter
  | gates
  deriving DecidableEq, Repr

/-- A machine as its caller constructs it: a realisation and a ROM image (70_reset_and_hazards.md R383). -/
structure Realisation where
  backend : Backend
  rom : List Word
  deriving DecidableEq, Repr

/-- The CPU runs: in the gate backend, when the bootloader does not hold it disabled (70_reset_and_hazards.md R372); the
interpreter has no such line. -/
def Realisation.enabled (m : Realisation) (s : State) : Bool :=
  match m.backend with
  | .interpreter => true
  | .gates => gateCpuEnabled m.rom s

/-- Half of an instruction: a clock pulse of the gate machine, or the interpreter's matching half (R300). -/
def Realisation.pulse (m : Realisation) (s : State) : Host.Outcome State Fault Refusal :=
  match m.backend with
  | .gates => machinePulse m.rom s
  | .interpreter =>
    match s.phase with
    | .fetch => .next (fetchPulse s)
    | .execute => executePulse s

/-- One instruction: the pulses that are left of it, two from phase Fetch (R300; log entry 23). -/
def Realisation.runInstruction (m : Realisation) (s : State) : Host.Outcome State Fault Refusal :=
  match s.phase with
  | .execute => m.pulse s
  | .fetch =>
    match m.pulse s with
    | .next t => m.pulse t
    | .fault f => .fault f
    | .refused r => .refused r

/-- One edge of the load (70_reset_and_hazards.md R373). -/
def Realisation.bootEdge (m : Realisation) (s : State) : State :=
  match m.backend with
  | .interpreter => Sys2Proof.Machine.bootEdge m.rom s
  | .gates => gateBootEdge m.rom s

/-- A word put directly into the execute stage (60_exceptions.md R355, R356). -/
def Realisation.injectWord (m : Realisation) (w : Word) (s : State) : Host.Outcome State Fault Refusal :=
  match m.backend with
  | .interpreter => executeWord w s
  | .gates => gateInject w s

/-- An instruction of `runInstructions`: the interpreter applies its rule, the gate backend is given its word in mode `11`
(60_exceptions.md R350, R357). -/
def Realisation.inject (m : Realisation) (i : Instr) (s : State) : Host.Outcome State Fault Refusal :=
  match m.backend with
  | .interpreter => exec i s
  | .gates => gateInject (encode i) s

end Sys2Proof.Machine
end

