-- ==== Sys2Proof/Machine/Debug.lean ====
section
/-!
DEFINITION. The debug channel (spec/60_exceptions.md R350 to R359).
-/

namespace Sys2Proof.Machine

/-- What the host asks over the debug channel: the four modes with their arguments (R350). -/
inductive DebugRequest
  | normal
  | readRegister (r : RegId)
  | readMemory (addr : Word)
  | inject (w : Word)
  deriving DecidableEq, Repr

/-- The 2-bit side channel's lines (R350). -/
def DebugRequest.lines : DebugRequest → BitVec 2
  | .normal => 0b00#2
  | .readRegister _ => 0b01#2
  | .readMemory _ => 0b10#2
  | .inject _ => 0b11#2

/-- Mode `01`: the current value of a register identity (R352, D35). -/
def State.debugRegister (s : State) : RegId → Word
  | .writable r => s.reg r
  | .ip => s.pc
  | .flags => flagsWord s.flags

/-- Mode `10`: a word of memory (R353). -/
def State.debugMemory (s : State) (addr : Word) : Word := s.memRead addr

/-- Mode `01` on either realisation: the interpreter "reads state directly" (R350, R352). -/
def Realisation.debugRegister (m : Realisation) (r : RegId) (s : State) : Word :=
  match m.backend with
  | .interpreter => s.debugRegister r
  | .gates => gateDebugRegister r s

/-- Mode `10` on either realisation (R350, R353). -/
def Realisation.debugMemory (m : Realisation) (addr : Word) (s : State) : Word :=
  match m.backend with
  | .interpreter => s.debugMemory addr
  | .gates => gateDebugMemory addr s

/-- The answer of one request: the state after it and the word read, if it is a read. -/
structure DebugReply where
  state : State
  value : Option Word
  deriving DecidableEq, Repr

/-- An outcome that reads nothing. -/
def replyOf (o : Host.Outcome State Fault Refusal) : Host.Outcome DebugReply Fault Refusal :=
  match o with
  | .next s => .next ⟨s, none⟩
  | .fault f => .fault f
  | .refused r => .refused r

/-- One request served: normal mode fetches and executes (R351), a read perturbs nothing (R352 to R354), an injected word
goes directly into the execute stage (R355, R356). -/
def serveDebug (m : Realisation) (req : DebugRequest) (s : State) : Host.Outcome DebugReply Fault Refusal :=
  match req with
  | .normal => replyOf (m.runInstruction s)
  | .readRegister r => .next ⟨s, some (m.debugRegister r s)⟩
  | .readMemory a => .next ⟨s, some (m.debugMemory a s)⟩
  | .inject w => replyOf (m.injectWord w s)

/-- Requests served one after another, their read values dropped. -/
def serveAll (m : Realisation) : List DebugRequest → State → Host.Outcome State Fault Refusal
  | [], s => .next s
  | req :: reqs, s =>
    match serveDebug m req s with
    | .next reply => serveAll m reqs reply.state
    | .fault f => .fault f
    | .refused r => .refused r

/-- A request that only reads: modes `01` and `10` (R352, R353). -/
def DebugRequest.isRead : DebugRequest → Bool
  | .readRegister _ | .readMemory _ => true
  | .normal | .inject _ => false

/-- Instructions injected one after another, each by its ordinary rule with the current state (R356, R357). -/
def injectAll (m : Realisation) : List Instr → State → Host.Outcome State Fault Refusal
  | [], s => .next s
  | i :: is, s =>
    match m.inject i s with
    | .next t => injectAll m is t
    | .fault f => .fault f
    | .refused r => .refused r

/-- `pc` and `Q` as they were before the call; the halted flag is unspecified, an argument (R357 to R359; log entry 24). -/
def restoreAfterInjection (before : State) (haltedAfter : Bool) (after : State) : State :=
  { after with pc := before.pc, regs := after.regs.set .q (before.reg .q), halted := haltedAfter }

/-- `runInstructions(list<Instruction>)` (R357). -/
def injectInstructions (m : Realisation) (is : List Instr) (haltedAfter : Bool) (s : State) :
    Host.Outcome State Fault Refusal :=
  match injectAll m is s with
  | .next t => .next (restoreAfterInjection s haltedAfter t)
  | .fault f => .fault f
  | .refused r => .refused r

end Sys2Proof.Machine
end

