-- ==== Sys2Proof/Machine/IoController.lean ====
section
/-!
DEFINITION. The I/O controller: installation, the device contract and the order of events at a clock edge
(spec/60_exceptions.md R340 to R348). The core defines no concrete device (R349): a device is an argument.
-/

namespace Sys2Proof.Machine

/-- A device: the ports whose `in[p]` it drives, the ports whose `out[p]` it consumes, its own words, and its `update()`
callback, which from its words and the committed outputs it consumes gives its new words and the input values it
drives (R343; log entry 26). -/
structure Device where
  inPorts : List Word
  outPorts : List Word
  words : List Word
  react : List Word → List Word → List Word × List (Word × Word)

/-- Every port a device declares (R342). -/
def Device.ports (d : Device) : List Word := d.inPorts ++ d.outPorts

/-- `install(deviceFactory)`: refused when a declared port is one of an installed device's (R342). The new device is
put last (log entry 26). -/
def install (installed : List Device) (d : Device) : Except Refusal (List Device) :=
  if installed.all (fun e => portsDisjoint d.ports e.ports) then .ok (installed ++ [d]) else .error .portCollision

/-- The input values a device drives, kept to the ports it declared (R343). -/
def State.drive (s : State) (d : Device) (values : List (Word × Word)) : State :=
  values.foldl (fun t pv => if d.inPorts.contains pv.1 then t.writeInput pv.1 pv.2 else t) s

/-- One device's `update()`: it reads the committed outputs and drives its inputs (R343, R344). -/
def updateDevice (d : Device) (s : State) : Device × State :=
  let reaction := d.react d.words (d.outPorts.map s.readOutput)
  ({ d with words := reaction.1 }, s.drive d reaction.2)

/-- Every installed device's `update()`, once each (R344). -/
def updateDevices : List Device → State → List Device × State
  | [], s => ([], s)
  | d :: ds, s =>
    let (d', s1) := updateDevice d s
    let (ds', s2) := updateDevices ds s1
    (d' :: ds', s2)

/-- A number of `update()` rounds. -/
def updateRounds : Nat → List Device → State → List Device × State
  | 0, ds, s => (ds, s)
  | k + 1, ds, s => let (ds', s') := updateDevices ds s; updateRounds k ds' s'

/-- The machine with its installed devices. -/
structure Board where
  machine : Realisation
  devices : List Device
  state : State

/-- An outcome of the CPU's pulse, with the devices beside it. -/
def Board.withOutcome (b : Board) (o : Host.Outcome State Fault Refusal) : Host.Outcome Board Fault Refusal :=
  match o with
  | .next s => .next { b with state := s }
  | .fault f => .fault f
  | .refused r => .refused r

/-- The Fetch edge: devices first, then the CPU's pulse (R344, R345; `UPDATES_PER_INSTRUCTION`). -/
def Board.fetchEdge (b : Board) : Host.Outcome Board Fault Refusal :=
  let (ds, s) := updateRounds (Switch.updatesPerInstruction - 1) b.devices b.state
  Board.withOutcome { b with devices := ds } (b.machine.pulse s)

/-- The state the CPU's reads see at an Execute edge: whether a device's update of the same edge is seen by an IO read is
left open (R347; log entry 9). -/
def executeView (before updated : State) : State :=
  if Config.sameEdgeUpdateSeen before.draws then updated else { updated with input := before.input }

/-- The Execute edge: devices first, observing the previous edge's committed outputs, then the CPU's writes, an IO write
being committed for the next edge's updates (R344, R348). -/
def Board.executeEdge (b : Board) : Host.Outcome Board Fault Refusal :=
  let (ds, s) := updateDevices b.devices b.state
  match b.machine.pulse (executeView b.state s) with
  | .next t => .next { b with devices := ds, state := { t with input := s.input } }
  | .fault f => .fault f
  | .refused r => .refused r

/-- One instruction with devices running: the Fetch edge, then the Execute edge (R345). -/
def Board.runInstruction (b : Board) : Host.Outcome Board Fault Refusal :=
  match b.state.phase with
  | .execute => b.executeEdge
  | .fetch =>
    match b.fetchEdge with
    | .next b' => b'.executeEdge
    | .fault f => .fault f
    | .refused r => .refused r

/-- A number of `update()` rounds of the devices. -/
def Board.updated (rounds : Nat) (b : Board) : Board :=
  let (ds, s) := updateRounds rounds b.devices b.state
  { b with devices := ds, state := s }

/-- One edge of the load with devices running: they are driven by the clock, not by the CPU (70_reset_and_hazards.md R378). -/
def Board.bootEdge (b : Board) : Board :=
  let (ds, s) := updateDevices b.devices b.state
  { b with devices := ds, state := b.machine.bootEdge s }

/-- A number of edges of the load. -/
def Board.bootEdges : Nat → Board → Board
  | 0, b => b
  | k + 1, b => Board.bootEdges k b.bootEdge

end Sys2Proof.Machine
end

