-- ==== Sys2Proof/Machine/Computer.lean ====
section
/-!
DEFINITION. The Computer contract: the machine's whole external interface (spec/70_reset_and_hazards.md R383 to R391).
-/

namespace Sys2Proof.Machine

/-- Where a Computer stands: created and never reset (R385), ready to run, or stopped by a DecodeFault that records the
word and its address and is left only by `reset()` (60_exceptions.md R322, R327). -/
inductive ComputerStatus
  | created
  | ready
  | faulted (word addr : Word)
  deriving DecidableEq, Repr

/-- A Computer is one of the two realisations, and owns a ROM, an I/O controller with its devices, and mutable execution
state (00_scope.md R16, 70_reset_and_hazards.md R383). -/
structure Computer where
  backend : Backend
  rom : List Word
  status : ComputerStatus
  devices : List Device
  state : State

/-- The realisation with its ROM. -/
def Computer.machine (c : Computer) : Realisation := ⟨c.backend, c.rom⟩

/-- The machine with its installed devices. -/
def Computer.board (c : Computer) : Board := ⟨c.machine, c.devices, c.state⟩

/-- The Computer whose devices and state a board's are. -/
def Computer.ofBoard (c : Computer) (b : Board) : Computer := { c with devices := b.devices, state := b.state }

/-- Create either backend from a ROM: all state unspecified, the argument `powerOn` (10_state.md R43); a ROM that is too long
is refused (R375, U8). -/
def Computer.create (backend : Backend) (rom : List Word) (powerOn : State) : Except Refusal Computer :=
  if romWellFormed rom then .ok ⟨backend, rom, .created, [], powerOn⟩ else .error .romTooLong

/-! ## Reset -/

/-- The load, edge by edge, with devices running: the reset pulse and as many edges as it takes (R373, U18), then the N edges
of the load (R370, R378). The committed outputs the devices observe at these edges are unspecified, an argument
(10_state.md R42; log entry 36). -/
def Computer.load (c : Computer) (u : Unspecified) : Board :=
  let pulsed : Board := { c.board with state := u.takenBy (resetPulse c.state) }
  Board.bootEdges c.rom.length (pulsed.updated u.pulseEdges)

/-- The state after the load: the gate backend's is what the bootloader's edges leave, the interpreter's is reset as one
transition (R380); output and input sides of the ports are unspecified in both (10_state.md R42; log entries 34, 36). -/
def Computer.resetState (c : Computer) (u : Unspecified) : State :=
  match c.backend with
  | .interpreter => resetWith c.rom u c.state
  | .gates => { (c.load u).state with out := u.out, input := u.input }

/-- `reset()`: the load, `pc` and `halted` cleared, everything unspecified taken from the argument (R380; log entry 34). It
leaves a fault state too. -/
def Computer.reset (c : Computer) (u : Unspecified) : Computer :=
  { c with status := .ready, devices := (c.load u).devices, state := c.resetState u }

/-! ## Running -/

/-- What an outcome of one instruction makes of a Computer: a fault changes nothing but the status (60_exceptions.md R322). -/
def Computer.after (c : Computer) (o : Host.Outcome Board Fault Refusal) : Except Refusal Computer :=
  match o with
  | .next b => .ok (c.ofBoard b)
  | .fault (.decodeFault w a) => .ok { c with status := .faulted w a }
  | .refused r => .error r

/-- A run operation needs a Computer that has been reset and has not faulted since (R385, U6, U11). -/
def Computer.ifReady (c : Computer) (k : Except Refusal Computer) : Except Refusal Computer :=
  match c.status with
  | .created => .error .neverReset
  | .ready => k
  | .faulted _ _ => .error .afterFault

/-- An operation that changes the machine and is no run applies in every status but the fault state, in which `reset()` is
the only one that applies (60_exceptions.md R322; 93_implementation_defined.md U11). -/
def Computer.ifNotFaulted (c : Computer) (k : Except Refusal Computer) : Except Refusal Computer :=
  match c.status with
  | .created | .ready => k
  | .faulted _ _ => .error .afterFault

/-- `runNextInstruction()` (R386). -/
def Computer.runNextInstruction (c : Computer) : Except Refusal Computer := c.ifReady (c.after c.board.runInstruction)

/-- A final state of a run: the last executed instruction was HLT; a faulted Computer is never final (R388). -/
def Computer.final (c : Computer) : Bool :=
  match c.status with
  | .ready => c.state.halted
  | .created | .faulted _ _ => false

/-- A DecodeFault aborts a run (R387). -/
def Computer.aborted (c : Computer) : Bool :=
  match c.status with
  | .faulted _ _ => true
  | .created | .ready => false

/-- `runUntilHalt()` with at most `fuel` instructions; `none` where they did not suffice (R387, U10). -/
def Computer.runUntilHalt : Nat → Computer → Option (Except Refusal Computer)
  | 0, _ => none
  | fuel + 1, c =>
    match c.runNextInstruction with
    | .error r => some (.error r)
    | .ok c' => if c'.final || c'.aborted then some (.ok c') else Computer.runUntilHalt fuel c'

/-- Injected instructions with devices running: before each one, and after the last, some number of `update()` rounds, which
the spec leaves open (93_implementation_defined.md U18), given as an argument (log entry 26). -/
def Board.injectAll : List Instr → List Nat → Board → Host.Outcome Board Fault Refusal
  | [], rounds, b => .next (b.updated (rounds.headD 0))
  | i :: is, rounds, b =>
    let b' := b.updated (rounds.headD 0)
    match b'.machine.inject i b'.state with
    | .next t => Board.injectAll is rounds.tail { b' with state := t }
    | .fault f => .fault f
    | .refused r => .refused r

/-- `runInstructions` with devices running (60_exceptions.md R357 to R359). -/
def Board.injectInstructions (is : List Instr) (rounds : List Nat) (haltedAfter : Bool) (b : Board) :
    Host.Outcome Board Fault Refusal :=
  match Board.injectAll is rounds b with
  | .next b' => .next { b' with state := restoreAfterInjection b.state haltedAfter b'.state }
  | .fault f => .fault f
  | .refused r => .refused r

/-- `runInstructions(list<Instruction>)` (60_exceptions.md R357). -/
def Computer.runInstructions (c : Computer) (is : List Instr) (rounds : List Nat) (haltedAfter : Bool) :
    Except Refusal Computer :=
  c.ifReady (c.after (Board.injectInstructions is rounds haltedAfter c.board))

/-! ## Debug reads and the I/O controller -/

/-- The Computer after a debug read: whether devices' `update()` runs on pulses the read takes is not stated
(60_exceptions.md R354), so the number of rounds is an argument (93_implementation_defined.md U18; log entry 25). In the
fault state nothing is updated (log entry 29). -/
def Computer.afterDebugRead (c : Computer) (rounds : Nat) : Computer :=
  match c.status with
  | .created | .ready => c.ofBoard (c.board.updated rounds)
  | .faulted _ _ => c

/-- `debugRegister(register)`: the word, and the Computer afterwards (60_exceptions.md R352, R354). -/
def Computer.debugRegister (c : Computer) (r : RegId) (rounds : Nat) : Word × Computer :=
  (c.machine.debugRegister r c.state, c.afterDebugRead rounds)

/-- `debugMemory(address)`: the word, and the Computer afterwards (60_exceptions.md R353, R354). -/
def Computer.debugMemory (c : Computer) (addr : Word) (rounds : Nat) : Word × Computer :=
  (c.machine.debugMemory addr c.state, c.afterDebugRead rounds)

/-- `ioController.install(deviceFactory)` (60_exceptions.md R342). "Installation happens before execution"; that the host may
also install between later instructions is the model's choice (log entry 37). -/
def Computer.install (c : Computer) (d : Device) : Except Refusal Computer :=
  c.ifNotFaulted
    (match Sys2Proof.Machine.install c.devices d with
     | .ok ds => .ok { c with devices := ds }
     | .error r => .error r)

/-- `ioController.readOutput(port)`: a pure read (60_exceptions.md R346). -/
def Computer.readOutput (c : Computer) (p : Word) : Word := c.state.readOutput p

/-- `ioController.writeInput(port, value)` (60_exceptions.md R347). -/
def Computer.writeInput (c : Computer) (p v : Word) : Except Refusal Computer :=
  c.ifNotFaulted (.ok { c with state := c.state.writeInput p v })

end Sys2Proof.Machine
end

