-- ==== Sys2Proof/Machine/Netlist.lean ====
section
/-!
DEFINITION. The signal-propagation engine: sources, sinks, binding, evaluation with cycle detection, memoisation by nonce,
and the clock (spec/47_gate_level_engine.md R250 to R259).
-/

namespace Sys2Proof.Machine

/-- A source of the netlist, by what drives it (R250, R253): an external input, a NAND gate with its two sinks, or the
output of a clocked cell. -/
inductive Source
  | input (k : Nat)
  | nand (sinkA sinkB : Nat)
  | clocked (k : Nat)
  deriving DecidableEq, Repr

/-- A netlist: its sources, the bindings (sink, source), and the clocked cells, each by the sink it samples (R251, R257). -/
structure Netlist where
  sources : List Source
  bindings : List (Nat × Nat)
  cells : List Nat
  deriving DecidableEq, Repr

/-- The source a sink is bound to (R251). -/
def Netlist.boundTo (n : Netlist) (sink : Nat) : Option Nat := (n.bindings.find? (fun b => b.1 == sink)).map Prod.snd

/-- `bind(sink, source)`: fails if the sink is already bound (R251). -/
def Netlist.bind (n : Netlist) (sink source : Nat) : Except Refusal Netlist :=
  match n.boundTo sink with
  | some _ => .error .sinkRebound
  | none => .ok { n with bindings := (sink, source) :: n.bindings }

/-- Binding a bus of sinks to a bus of sources, element to element; widths must be equal (R252). -/
def Netlist.bindBus (n : Netlist) : List Nat → List Nat → Except Refusal Netlist
  | [], [] => .ok n
  | sink :: sinks, source :: sources =>
    if sinks.length = sources.length then
      match n.bind sink source with
      | .ok n' => n'.bindBus sinks sources
      | .error r => .error r
    else .error .widthMismatch
  | _, _ => .error .widthMismatch

/-- The sinks of a source: a gate's two. -/
def Source.sinks : Source → List Nat
  | .nand sinkA sinkB => [sinkA, sinkB]
  | .input _ | .clocked _ => []

/-- Every sink of the netlist: the gates' and the cells' (R250, R251). -/
def Netlist.sinks (n : Netlist) : List Nat := n.sources.flatMap Source.sinks ++ n.cells

/-- "Every sink bound exactly once" (R251): one binding of each sink, neither none nor two. -/
def Netlist.complete (n : Netlist) : Bool := n.sinks.all (fun sink => n.bindings.countP (fun b => b.1 == sink) == 1)

/-- Evaluation of a netlist: an unbound or a doubly bound sink anywhere in it is refused before the first evaluation
(R251). -/
def Netlist.ifComplete {α : Type} (n : Netlist) (k : Except Refusal α) : Except Refusal α :=
  if n.complete then k else .error .malformedNetlist

/-- The external inputs and the committed cells evaluation reads (R253, R254). -/
structure Levels where
  inputs : List Bool
  committed : List Bool
  deriving DecidableEq, Repr

/-- A listed value, or the netlist is malformed. -/
def levelAt (values : List Bool) (k : Nat) : Except Refusal Bool :=
  match values[k]? with
  | some b => .ok b
  | none => .error .malformedNetlist

/-- The value of a source by plain recursion over the netlist, with the sources being evaluated: meeting one of them
again is a combinational cycle (R253, R254). -/
def Netlist.value (n : Netlist) (l : Levels) : Nat → List Nat → Nat → Except Refusal Bool
  | 0, _, _ => .error .combinationalCycle
  | fuel + 1, active, source =>
    if active.contains source then .error .combinationalCycle
    else
      match n.sources[source]? with
      | none => .error .malformedNetlist
      | some (.input k) => levelAt l.inputs k
      | some (.clocked k) => levelAt l.committed k
      | some (.nand sinkA sinkB) =>
        match n.boundTo sinkA, n.boundTo sinkB with
        | some sourceA, some sourceB =>
          match n.value l fuel (source :: active) sourceA, n.value l fuel (source :: active) sourceB with
          | .ok a, .ok b => .ok (nandGate a b)
          | .error r, _ => .error r
          | _, .error r => .error r
        | _, _ => .error .malformedNetlist

/-- The evaluation engine: the levels, the bits latched by the last tick, the nonce of this edge, and the values
memoised, each with the nonce it was computed for (R253, R254). -/
structure Engine where
  levels : Levels
  latched : List Bool
  nonce : Nat
  memo : List (Nat × Nat × Bool)
  deriving DecidableEq, Repr

/-- The value memoised for a source at this nonce, if one is (R253). -/
def Engine.recalled (e : Engine) (source : Nat) : Option Bool :=
  (e.memo.find? (fun m => m.1 == e.nonce && m.2.1 == source)).map (fun m => m.2.2)

/-- A value memoised at this nonce. -/
def Engine.remember (e : Engine) (source : Nat) (b : Bool) : Engine := { e with memo := (e.nonce, source, b) :: e.memo }

/-- The recursion of `read`: memoised per nonce, fails on a cycle (R253). -/
def Engine.read (n : Netlist) : Nat → List Nat → Nat → Engine → Except Refusal (Bool × Engine)
  | 0, _, _, _ => .error .combinationalCycle
  | fuel + 1, active, source, e =>
    match e.recalled source with
    | some b => .ok (b, e)
    | none =>
      if active.contains source then .error .combinationalCycle
      else
        match n.sources[source]? with
        | none => .error .malformedNetlist
        | some (.input k) =>
          match levelAt e.levels.inputs k with
          | .ok b => .ok (b, e.remember source b)
          | .error r => .error r
        | some (.clocked k) =>
          match levelAt e.levels.committed k with
          | .ok b => .ok (b, e.remember source b)
          | .error r => .error r
        | some (.nand sinkA sinkB) =>
          match n.boundTo sinkA, n.boundTo sinkB with
          | some sourceA, some sourceB =>
            match Engine.read n fuel (source :: active) sourceA e with
            | .error r => .error r
            | .ok (a, e1) =>
              match Engine.read n fuel (source :: active) sourceB e1 with
              | .error r => .error r
              | .ok (b, e2) => .ok (nandGate a b, e2.remember source (nandGate a b))
          | _, _ => .error .malformedNetlist

/-- Fuel that suffices: a path without a repeat is no longer than the list of sources. -/
def Netlist.depth (n : Netlist) : Nat := n.sources.length + 1

/-- `read(source, nonce)` on a netlist every sink of which is bound exactly once (R251, R253). -/
def Engine.readSource (n : Netlist) (source : Nat) (e : Engine) : Except Refusal (Bool × Engine) :=
  n.ifComplete (Engine.read n n.depth [] source e)

/-- tick of the cells one after another: each samples the value of the source its sink is bound to (R255). -/
def Engine.sample (n : Netlist) : List Nat → Engine → Except Refusal (List Bool × Engine)
  | [], e => .ok ([], e)
  | sink :: sinks, e =>
    match n.boundTo sink with
    | none => .error .malformedNetlist
    | some source =>
      match Engine.read n n.depth [] source e with
      | .error r => .error r
      | .ok (b, e1) =>
        match Engine.sample n sinks e1 with
        | .error r => .error r
        | .ok (bs, e2) => .ok (b :: bs, e2)

/-- tick: latch the next state of every cell from the pre-edge levels (R255, R256). -/
def Engine.tick (n : Netlist) (e : Engine) : Except Refusal Engine :=
  n.ifComplete
    (match Engine.sample n n.cells e with
     | .ok (bs, e') => .ok { e' with latched := bs }
     | .error r => .error r)

/-- tock: commit every latched bit (R255). -/
def Engine.tock (e : Engine) : Engine := { e with levels := { e.levels with committed := e.latched } }

/-- `Clock.pulse()`: all ticks, then all tocks, then a fresh nonce (R255, R256). -/
def Engine.pulse (n : Netlist) (e : Engine) : Except Refusal Engine :=
  match e.tick n with
  | .ok e' => .ok { e'.tock with nonce := e'.nonce + 1 }
  | .error r => .error r

end Sys2Proof.Machine
end

