-- ==== Sys2Proof/Safety.lean ====
section
/-!
DEFINITION. The terms claims are made in: runs, final states, the invariant of the model, and what an instruction leaves
unchanged.
-/

namespace Sys2Proof.Machine

/-! ## Runs -/

/-- A number of steps, stopping at the first fault or refusal. -/
def runSteps : Nat → State → Host.Outcome State Fault Refusal
  | 0, s => .next s
  | k + 1, s =>
    match step s with
    | .next t => runSteps k t
    | .fault f => .fault f
    | .refused r => .refused r

/-- A run's outcome is final: it is a state whose last executed instruction was HLT, never a fault
(70_reset_and_hazards.md R388). -/
def Final (o : Host.Outcome State Fault Refusal) : Prop := ∃ s, o = .next s ∧ s.halted = true

/-- A safe run of `k` steps: it executes no reserved word (60_exceptions.md R322, 47_gate_level_engine.md R306). -/
def SafeRun (k : Nat) (s : State) : Prop := ∃ t, runSteps k s = .next t

/-! ## The invariant -/

/-- The value the CPU wrote last to a port, by the record of its outputs. -/
def lastWritten (trace : List (Word × Word)) (p : Word) : Option Word :=
  trace.foldl (fun last pv => if pv.1 = p then some pv.2 else last) none

/-- What every step keeps: the sparse stores are in canonical form, the machine stands between instructions with its phase
at Fetch (10_state.md R38), and both halves of a port's output buffer hold the value the CPU wrote last to it
(60_exceptions.md R341, R346). -/
structure State.Inv (s : State) : Prop where
  mem : s.mem.wf
  input : s.input.wf
  outPending : s.outPending.wf
  out : s.out.wf
  phase : s.phase = .fetch
  traced : ∀ p v, lastWritten s.outTrace p = some v →
    s.out.cell p.toNat = some v ∧ s.outPending.cell p.toNat = some v

/-! ## The numbers of the encoding, as the spec prints them -/

/-- The writable register of a code 0 to 7, in the order the spec lists them (10_state.md R21). -/
def regNumbered (k : Nat) : Reg := [Reg.a, .b, .c, .d, .p, .q, .bp, .sp].getD k .a

/-- The decimal codes of the default operation table, in the order the spec prints them (43_alu.md R183). -/
def aluCodesPrinted : List (Nat × AluOp) :=
  [ (42, .zero), (63, .one), (58, .negOne), (12, .a), (48, .b), (13, .notA), (49, .notB), (15, .negA), (51, .negB),
    (31, .aPlus1), (55, .bPlus1), (14, .aMinus1), (50, .bMinus1), (2, .aPlusB), (19, .aMinusB), (7, .bMinusA),
    (0, .and), (21, .or), (1, .shl), (4, .shr), (5, .xor) ]

/-- A reserved word, by its number: a MOV with source code 10 to 15, or an ALU word whose code is none of the 21
(30_encoding.md R120). -/
def ReservedNumber (n : Nat) : Prop :=
  (n / 8192 = 2 ∧ 10 ≤ n / 512 % 16) ∨ (n / 8192 = 5 ∧ ∀ row ∈ aluCodesPrinted, n % 64 ≠ row.1)

/-! ## Frames -/

/-- Every register but the listed ones is unchanged. -/
def KeepsRegs (besides : List Reg) (s t : State) : Prop := ∀ r, r ∉ besides → t.reg r = s.reg r

/-- Every word of memory is unchanged. -/
def KeepsMemory (s t : State) : Prop := ∀ a, t.memRead a = s.memRead a

/-- The input side of every port is unchanged. -/
def KeepsInput (s t : State) : Prop := t.input = s.input

/-- The output side of every port and the record of outputs are unchanged. -/
def KeepsOutput (s t : State) : Prop := t.out = s.out ∧ t.outPending = s.outPending ∧ t.outTrace = s.outTrace

/-- The sequencing state no program sees is unchanged. -/
def KeepsHidden (s t : State) : Prop := t.ir = s.ir ∧ t.phase = s.phase ∧ t.bootCount = s.bootCount

/-- Registers other than the listed ones, memory, ports, hidden state and draws are unchanged: the frame of an
instruction that writes only the listed registers, the flags, `pc` and `halted`. -/
structure RegisterFrame (besides : List Reg) (s t : State) : Prop where
  regs : KeepsRegs besides s t
  memory : KeepsMemory s t
  input : KeepsInput s t
  output : KeepsOutput s t
  hidden : KeepsHidden s t
  draws : t.draws = s.draws

/-- The instruction ended as every instruction but HLT and a taken jump does. -/
def Advanced (s t : State) : Prop := t.pc = s.pc + 1 ∧ t.halted = false

/-- What an ALU instruction does, given its result and overflow: the result in `P` or `Q`, the three flags, and the frame
(43_alu.md R181, R184). -/
structure AluEffect (dst : AluDest) (r : Word) (v : Prop) (s t : State) : Prop where
  result : t.reg dst.reg = r
  zero : t.flags.z = true ↔ r = 0
  negative : t.flags.n = r.getLsbD 15
  overflow : t.flags.v = true ↔ v
  advanced : Advanced s t
  frame : RegisterFrame [dst.reg] s t

/-- `exec` answers a next state, and that state has the property. -/
def Completes (i : Instr) (s : State) (post : State → Prop) : Prop := ∃ t, exec i s = .next t ∧ post t

/-- An instruction reads the flags: from two states that differ in the flags alone it gives next states that differ in
something else. -/
def ReadsFlags (i : Instr) : Prop :=
  ∃ (s t t' : State) (f : Flags), exec i s = .next t ∧ exec i { s with flags := f } = .next t' ∧
    { t' with flags := t.flags } ≠ t

end Sys2Proof.Machine
end

