-- ==== Sys2Proof/Certificates/Slice0/Obligations.lean ====
section
/-!
DEFINITION. The statements for the provers. Most rules of this spec rest on a numbered decision of spec/92_eei_decisions.md
(the source is silent there); where a statement rests on one, its docstring names it.
-/

open Sys2Proof Sys2Proof.Machine

/-! ## Encoding -/

/-- Decoding inverts encoding, and encoding inverts decoding on exactly the words with every unused bit zero (the source's
round-trip test; the second half rests on decision D16, log entry 19, and the table on D8, log entry 11). -/
def Obligations.DecodeInvertsEncode : Prop :=
  (∀ i : Instr, i.wellFormed = true → decode (encode i) = .ok i) ∧
  (∀ (w : Word) (i : Instr), decode w = .ok i → (encode i = w ↔ w &&& unusedBits i = 0))

/-- The decoding procedure of 30_encoding.md section 4, on the number a word is: which instruction each opcode, flag and
field value gives (field roles by decisions D2 to D5, D7, D14, D15; table by D8; log entries 11 to 15, 18). -/
def Obligations.DecodeFollowsFieldProcedure : Prop :=
  ∀ w : Word,
    let n := w.toNat
    let fl := n / 4096 % 2
    let ra := regNumbered (n / 512 % 8)
    let rb := regNumbered (n / 64 % 8)
    let cond : Cond := ⟨decide (n / 2048 % 2 = 1), decide (n / 1024 % 2 = 1), decide (n / 512 % 2 = 1)⟩
    (n / 8192 = 0 → decode w = .ok .hlt) ∧
    (n / 8192 = 1 → decode w = .ok .nop) ∧
    (n / 8192 = 2 → n / 512 % 16 ≤ 7 → decode w = .ok (.mov rb ra)) ∧
    (n / 8192 = 2 → n / 512 % 16 = 8 → decode w = .ok (.movIp rb)) ∧
    (n / 8192 = 2 → n / 512 % 16 = 9 → decode w = .ok (.movFlags rb)) ∧
    (n / 8192 = 3 → fl = 0 → decode w = .ok (.setl ra (BitVec.ofNat 8 n))) ∧
    (n / 8192 = 3 → fl = 1 → decode w = .ok (.seth ra (BitVec.ofNat 8 n))) ∧
    (n / 8192 = 4 → fl = 0 → decode w = .ok (.cmpS cond rb)) ∧
    (n / 8192 = 4 → fl = 1 → decode w = .ok (.cmpJ cond rb)) ∧
    (∀ row ∈ aluCodesPrinted, n / 8192 = 5 → n % 64 = row.1 →
      decode w = .ok (aluInstr row.2 (if fl = 1 then .q else .p) ra rb)) ∧
    (n / 8192 = 6 → fl = 0 → decode w = .ok (.ld rb ra)) ∧
    (n / 8192 = 6 → fl = 1 → decode w = .ok (.st ra rb)) ∧
    (n / 8192 = 7 → fl = 0 → decode w = .ok (.ioIn rb ra)) ∧
    (n / 8192 = 7 → fl = 1 → decode w = .ok (.ioOut ra rb)) ∧
    (ReservedNumber n ↔ ∃ e, decode w = .error e)

/-- The bits an instruction does not use do not change what a word decodes to (decision D16; log entry 19). -/
def Obligations.UnusedBitsAreIgnored : Prop :=
  ∀ (w m : Word) (i : Instr), decode w = .ok i →
    decode ((w &&& ~~~(unusedBits i)) ||| (m &&& unusedBits i)) = .ok i

/-- Words of 95_test_vectors.md section 2.1, one or more of every family, decode to the instructions they stand for: field
roles and codes by decisions D2 to D5, D7, D8, D14, D15 (log entries 11 to 15, 18), the aliases by D16 (log entry 19), the
reserved words by D17 (log entry 20). -/
def Obligations.SpecWordsDecode : Prop :=
  decode 0x0000#16 = .ok .hlt ∧
  decode 0x3ABC#16 = .ok .nop ∧
  decode 0x4800#16 = .ok (.mov .a .p) ∧
  decode 0x51C0#16 = .ok (.movIp .sp) ∧
  decode 0x5380#16 = .ok (.movFlags .bp) ∧
  decode 0x6608#16 = .ok (.setl .d 0x08#8) ∧
  decode 0x7EFF#16 = .ok (.seth .sp 0xFF#8) ∧
  decode 0x8480#16 = .ok (.cmpS ⟨false, true, false⟩ .c) ∧
  decode 0x9AFF#16 = .ok (.cmpJ ⟨true, false, true⟩ .d) ∧
  decode 0xA053#16 = .ok (.aluAMinusB .p .a .b) ∧
  decode 0xB4C5#16 = .ok (.aluXor .q .c .d) ∧
  decode 0xC180#16 = .ok (.ld .bp .a) ∧
  decode 0xD080#16 = .ok (.st .a .c) ∧
  decode 0xEA40#16 = .ok (.ioIn .b .q) ∧
  decode 0xF400#16 = .ok (.ioOut .c .a) ∧
  decode 0x5FC0#16 = .error (.reservedMovSource 15#4) ∧
  decode 0xA003#16 = .error (.reservedAluCode 3#6)

/-! ## Steps -/

/-- A step faults on exactly the reserved words, recording the word and its address, and answers a next state on every
other word (decision D17, log entry 20; the table is D8's, log entry 11). -/
def Obligations.ReservedWordsFault : Prop :=
  ∀ s : State, s.phase = .fetch →
    (ReservedNumber (s.memRead s.pc).toNat → step s = .fault (.decodeFault (s.memRead s.pc) s.pc)) ∧
    (¬ReservedNumber (s.memRead s.pc).toNat → ∃ t, step s = .next t)

/-- When the word at `pc` decodes to an instruction, a step is that instruction's effect, with the word left in the
next-instruction register and the phase at Fetch (decision D23 for the halted flag not being looked at; log entry 23). -/
def Obligations.StepRunsDecodedInstruction : Prop :=
  ∀ (s t : State) (i : Instr), s.phase = .fetch → decode (s.memRead s.pc) = .ok i → i.wellFormed = true →
    exec i s = .next t → step s = .next { t with ir := s.memRead s.pc, phase := .fetch }

/-- No instruction faults or is refused: in every state every instruction of the table answers a next state; only words that
decode to no instruction fault (decision D17; log entry 20). -/
def Obligations.EveryInstructionCompletes : Prop :=
  ∀ (i : Instr) (s : State), ∃ t, exec i s = .next t

/-- HLT raises the halted flag and moves past itself, NOP lowers it and advances; neither touches anything else (decisions
D18, D22; log entries 21, 22). -/
def Obligations.HltHaltsAndNopAdvances : Prop :=
  ∀ s : State,
    Completes .hlt s (fun t => t.halted = true ∧ t.pc = s.pc + 1 ∧ t.flags = s.flags ∧ RegisterFrame [] s t) ∧
    Completes .nop s (fun t => Advanced s t ∧ t.flags = s.flags ∧ RegisterFrame [] s t)

/-- The halted flag after an instruction says whether that instruction was HLT (decision D22; log entry 22). -/
def Obligations.HaltedTellsWhetherLastWasHlt : Prop :=
  ∀ (i : Instr) (s t : State), exec i s = .next t → (t.halted = true ↔ i = .hlt)

/-- The next address is `pc + 1` modulo `2^16`, unless a CMP with its jump bit set finds its condition true: then it is the
whole value of its register (decision D18; log entry 21). -/
def Obligations.ProgramCounterAdvancesOrJumps : Prop :=
  ∀ (i : Instr) (s t : State), exec i s = .next t →
    (t.pc.toNat = (s.pc.toNat + 1) % 65536 ∧ ∀ c rt, i = .cmpJ c rt → condTrue c s.flags = false) ∨
    (∃ c rt, i = .cmpJ c rt ∧ condTrue c s.flags = true ∧ t.pc = s.reg rt)

/-! ## MOV and SET -/

/-- MOV copies the source's old value into the destination, whichever two registers they are (decision D2; log entry 12). -/
def Obligations.MovCopiesRegister : Prop :=
  ∀ (rd rs : Reg) (s : State), Completes (.mov rd rs) s (fun t =>
    t.reg rd = s.reg rs ∧ t.flags = s.flags ∧ Advanced s t ∧ RegisterFrame [rd] s t)

/-- MOV from IP reads the address of the MOV itself, MOV from FLAGS the flags at bits 2, 1 and 0 (decisions D12, D13; log
entry 17). -/
def Obligations.MovReadsPseudoRegisters : Prop :=
  ∀ (rd : Reg) (s : State),
    Completes (.movIp rd) s (fun t =>
      t.reg rd = s.pc ∧ t.flags = s.flags ∧ Advanced s t ∧ RegisterFrame [rd] s t) ∧
    Completes (.movFlags rd) s (fun t =>
      (t.reg rd).toNat = 4 * s.flags.z.toNat + 2 * s.flags.n.toNat + s.flags.v.toNat ∧
      t.flags = s.flags ∧ Advanced s t ∧ RegisterFrame [rd] s t)

/-- SETL replaces bits 7 to 0 and SETH bits 15 to 8 by the immediate; the other byte is kept (decision D3; log entry 13). -/
def Obligations.SetReplacesOneByte : Prop :=
  ∀ (rd : Reg) (imm : BitVec 8) (s : State),
    Completes (.setl rd imm) s (fun t =>
      (t.reg rd).toNat = (s.reg rd).toNat / 256 * 256 + imm.toNat ∧
      t.flags = s.flags ∧ Advanced s t ∧ RegisterFrame [rd] s t) ∧
    Completes (.seth rd imm) s (fun t =>
      (t.reg rd).toNat = imm.toNat * 256 + (s.reg rd).toNat % 256 ∧
      t.flags = s.flags ∧ Advanced s t ∧ RegisterFrame [rd] s t)

/-! ## CMP -/

/-- CMP in compute mode writes 1 or 0: the `equal` bit decides when Z is set, else `less` when N and V differ, else
`greater` (decisions D4 to D6; log entry 14). -/
def Obligations.CmpStoresCondition : Prop :=
  ∀ (c : Cond) (rd : Reg) (s : State), Completes (.cmpS c rd) s (fun t =>
    t.reg rd = (if (if s.flags.z then c.equal else if s.flags.n = s.flags.v then c.greater else c.less) then 1 else 0) ∧
    t.flags = s.flags ∧ Advanced s t ∧ RegisterFrame [rd] s t)

/-- CMP in jump mode goes to the register's whole value when the condition holds, else to the next word; it writes no
register and no flag (decisions D4 to D6; log entry 14). -/
def Obligations.CmpJumpsOnCondition : Prop :=
  ∀ (c : Cond) (rt : Reg) (s : State), Completes (.cmpJ c rt) s (fun t =>
    t.pc = (if (if s.flags.z then c.equal else if s.flags.n = s.flags.v then c.greater else c.less)
            then s.reg rt else s.pc + 1) ∧
    t.halted = false ∧ t.flags = s.flags ∧ RegisterFrame [] s t)

/-- After `A_MINUS_B` on two registers, CMP in both modes decides `shouldJump` on the mathematical difference of their
signed values, overflow included (decisions D5, D6, D10; log entries 14, 15). -/
def Obligations.SignedComparisonIsExact : Prop :=
  ∀ (dst : AluDest) (rx ry : Reg) (s : State), Completes (.aluAMinusB dst rx ry) s (fun t =>
    ∀ (c : Cond) (r : Reg),
      let holds := shouldJump c ((s.reg rx).signed - (s.reg ry).signed)
      Completes (.cmpS c r) t (fun u => u.reg r = if holds then 1 else 0) ∧
      Completes (.cmpJ c r) t (fun u => u.pc = if holds then t.reg r else t.pc + 1))

/-- After an operation that is not addition-class, the conditions test the 16-bit result as a signed number (decisions D6,
D8, D10; log entries 11, 14, 15). -/
def Obligations.NonAdditionResultsCompareAsSigned : Prop :=
  ∀ op ∈ [AluOp.a, .b, .notA, .notB, .and, .or, .shl, .shr, .xor],
    ∀ (dst : AluDest) (ra rb : Reg) (s : State), Completes (aluInstr op dst ra rb) s (fun t =>
      t.flags.v = false ∧ ∀ c : Cond, condTrue c t.flags = shouldJump c (t.reg dst.reg).signed)

/-- Zero and overflow are set together by exactly one computation of the default table: `A_PLUS_B` of 0x8000 and 0x8000
(the table is decision D8's, log entry 11). -/
def Obligations.ZeroWithOverflowOnlyFromTwoMinima : Prop :=
  ∀ (op : AluOp) (dst : AluDest) (ra rb : Reg) (s : State), Completes (aluInstr op dst ra rb) s (fun t =>
    (t.flags.z = true ∧ t.flags.v = true) ↔ (op = .aPlusB ∧ s.reg ra = 0x8000#16 ∧ s.reg rb = 0x8000#16))

/-! ## ALU: results, flags and frames (operands and destination by decision D7, operations and codes by D8, overflow by D10;
log entries 11 and 15) -/

/-- ZERO, ONE and NEG_ONE ignore their operands and never overflow (decisions D7, D8; log entries 11, 15). -/
def Obligations.AluConstants : Prop :=
  ∀ (dst : AluDest) (ra rb : Reg) (s : State),
    Completes (.aluZero dst ra rb) s (AluEffect dst 0x0000#16 False s) ∧
    Completes (.aluOne dst ra rb) s (AluEffect dst 0x0001#16 False s) ∧
    Completes (.aluNegOne dst ra rb) s (AluEffect dst 0xFFFF#16 False s)

/-- A and B pass an operand through, NOT_A and NOT_B give its complement; none overflows (decisions D7, D8; log entries 11,
15). -/
def Obligations.AluOperandsAndComplements : Prop :=
  ∀ (dst : AluDest) (ra rb : Reg) (s : State),
    Completes (.aluA dst ra rb) s (AluEffect dst (s.reg ra) False s) ∧
    Completes (.aluB dst ra rb) s (AluEffect dst (s.reg rb) False s) ∧
    Completes (.aluNotA dst ra rb) s (AluEffect dst (BitVec.ofNat 16 (65535 - (s.reg ra).toNat)) False s) ∧
    Completes (.aluNotB dst ra rb) s (AluEffect dst (BitVec.ofNat 16 (65535 - (s.reg rb).toNat)) False s)

/-- NEG_A and NEG_B negate modulo `2^16` and overflow exactly on 0x8000 (decisions D7, D8, D10; log entries 11, 15). -/
def Obligations.AluNegations : Prop :=
  ∀ (dst : AluDest) (ra rb : Reg) (s : State),
    Completes (.aluNegA dst ra rb) s (AluEffect dst (0 - s.reg ra) (s.reg ra = 0x8000#16) s) ∧
    Completes (.aluNegB dst ra rb) s (AluEffect dst (0 - s.reg rb) (s.reg rb = 0x8000#16) s)

/-- The increments overflow exactly on 0x7FFF, the decrements exactly on 0x8000 (decisions D7, D8, D10; log entries 11,
15). -/
def Obligations.AluIncrementsAndDecrements : Prop :=
  ∀ (dst : AluDest) (ra rb : Reg) (s : State),
    Completes (.aluAPlus1 dst ra rb) s (AluEffect dst (s.reg ra + 1) (s.reg ra = 0x7FFF#16) s) ∧
    Completes (.aluBPlus1 dst ra rb) s (AluEffect dst (s.reg rb + 1) (s.reg rb = 0x7FFF#16) s) ∧
    Completes (.aluAMinus1 dst ra rb) s (AluEffect dst (s.reg ra - 1) (s.reg ra = 0x8000#16) s) ∧
    Completes (.aluBMinus1 dst ra rb) s (AluEffect dst (s.reg rb - 1) (s.reg rb = 0x8000#16) s)

/-- The sum overflows exactly when operands of one sign give a result of the other, the differences exactly when operands
of different signs give a result whose sign is not the minuend's (decisions D7, D8, D10; log entries 11, 15). -/
def Obligations.AluSumAndDifferences : Prop :=
  ∀ (dst : AluDest) (ra rb : Reg) (s : State),
    let a := s.reg ra
    let b := s.reg rb
    Completes (.aluAPlusB dst ra rb) s (AluEffect dst (a + b)
      (a.getLsbD 15 = b.getLsbD 15 ∧ (a + b).getLsbD 15 ≠ a.getLsbD 15) s) ∧
    Completes (.aluAMinusB dst ra rb) s (AluEffect dst (a - b)
      (a.getLsbD 15 ≠ b.getLsbD 15 ∧ (a - b).getLsbD 15 ≠ a.getLsbD 15) s) ∧
    Completes (.aluBMinusA dst ra rb) s (AluEffect dst (b - a)
      (a.getLsbD 15 ≠ b.getLsbD 15 ∧ (b - a).getLsbD 15 ≠ b.getLsbD 15) s)

/-- AND, OR and XOR act bit by bit and never overflow (decisions D7, D8; log entries 11, 15). -/
def Obligations.AluBitwise : Prop :=
  ∀ (dst : AluDest) (ra rb : Reg) (s : State),
    Completes (.aluAnd dst ra rb) s (AluEffect dst (s.reg ra &&& s.reg rb) False s) ∧
    Completes (.aluOr dst ra rb) s (AluEffect dst (s.reg ra ||| s.reg rb) False s) ∧
    Completes (.aluXor dst ra rb) s (AluEffect dst (s.reg ra ^^^ s.reg rb) False s)

/-- SHL doubles operand a modulo `2^16`, SHR halves it as an unsigned number; neither overflows (decisions D8, D11; log
entries 11, 16). -/
def Obligations.AluShifts : Prop :=
  ∀ (dst : AluDest) (ra rb : Reg) (s : State),
    Completes (.aluShl dst ra rb) s (AluEffect dst (BitVec.ofNat 16 (2 * (s.reg ra).toNat)) False s) ∧
    Completes (.aluShr dst ra rb) s (AluEffect dst (BitVec.ofNat 16 ((s.reg ra).toNat / 2)) False s)

/-- For all 21 operations Z is set exactly when the final result is 0 and N is its bit 15; in the gate ALU they are the zero
detector over the output bus and the bus's top wire. -/
def Obligations.ZeroAndNegativeFollowResult : Prop :=
  (∀ (op : AluOp) (dst : AluDest) (ra rb : Reg) (s : State), Completes (aluInstr op dst ra rb) s (fun t =>
    (t.flags.z = true ↔ t.reg dst.reg = 0x0000#16) ∧ t.flags.n = (t.reg dst.reg).getLsbD 15)) ∧
  (∀ (l : AluLines) (a b : Word), let g := gateAlu l (busOf a) (busOf b)
    g.zero = isZeroGate g.out ∧ some g.negative = g.out.head? ∧ g.out.length = 16)

/-- Every ALU instruction writes all three flags whatever they were; no other instruction writes a flag, however many run
one after another, and no Fetch pulse does; CMP in both modes and MOV from FLAGS read them, and no other instruction does. -/
def Obligations.OnlyAluInstructionsWriteFlags : Prop :=
  (∀ (op : AluOp) (dst : AluDest) (ra rb : Reg) (s : State) (f : Flags),
    Completes (aluInstr op dst ra rb) s (fun t => exec (aluInstr op dst ra rb) { s with flags := f } = .next t)) ∧
  (∀ (i : Instr) (s t : State), i.aluOp = none → exec i s = .next t → t.flags = s.flags) ∧
  (∀ (m : Realisation) (is : List Instr) (s t : State), (∀ i ∈ is, i.aluOp = none) → injectAll m is s = .next t →
    t.flags = s.flags) ∧
  (∀ s : State, (fetchPulse s).flags = s.flags ∧ (gateFetch s).flags = s.flags) ∧
  (∀ r : Reg, ReadsFlags (.movFlags r) ∧ ReadsFlags (.cmpS ⟨true, false, false⟩ r) ∧
    ReadsFlags (.cmpJ ⟨true, false, false⟩ r)) ∧
  (∀ i : Instr, (∀ c r, i ≠ .cmpS c r) → (∀ c r, i ≠ .cmpJ c r) → (∀ r, i ≠ .movFlags r) → ¬ReadsFlags i)

/-- For the eighteen operations on the main path, the six control lines of the code compute the named function, and the
gated overflow of the raw adder is the condition that the mathematical value is out of range (decisions D8 to D10; log
entries 11, 15). -/
def Obligations.ControlLinesComputeTable : Prop :=
  ∀ (op : AluOp) (code : BitVec 6), Switch.aluTable.codeOf op = some code → op ∉ [AluOp.shl, .shr, .xor] →
    ∀ a b : Word, mainPath (aluLines code) a b = aluReference op a b

/-- The gate ALU, driven by an operation's code, gives the reference function's result and flags, for all 21 operations and all
operand pairs (R294 asks it of a sample). The operations, their codes and their functions are decision D8's (log entry 11), the
overflow of every operation and the coding of the two extra control bits D10's and the model's (log entry 15). -/
def Obligations.GateAluMatchesReference : Prop :=
  ∀ (op : AluOp) (code : BitVec 6), Switch.aluTable.codeOf op = some code → ∀ a b : Word,
    let g := gateAlu (aluLines code) (busOf a) (busOf b)
    let ref := aluReference op a b
    g.out = busOf ref.r ∧ g.zero = decide (ref.r = 0) ∧ g.negative = ref.r.getLsbD 15 ∧ g.overflow = ref.v

/-! ## MEM and IO -/

/-- LD reads the word its address register names before the destination is written (decision D14; log entry 18). -/
def Obligations.LoadReadsWord : Prop :=
  ∀ (rd rx : Reg) (s : State), Completes (.ld rd rx) s (fun t =>
    t.reg rd = s.memRead (s.reg rx) ∧ t.flags = s.flags ∧ Advanced s t ∧ RegisterFrame [rd] s t)

/-- ST stores the source register at the address register's value and changes no other word, register, flag or port
(decision D14; log entry 18). -/
def Obligations.StoreWritesOneWord : Prop :=
  ∀ (rx rs : Reg) (s : State), Completes (.st rx rs) s (fun t =>
    t.memRead (s.reg rx) = s.reg rs ∧
    (∀ a, s.reg rx ≠ a → t.memRead a = s.memRead a) ∧
    t.flags = s.flags ∧ Advanced s t ∧
    KeepsRegs [] s t ∧ KeepsInput s t ∧ KeepsOutput s t ∧ KeepsHidden s t ∧ t.draws = s.draws)

/-- A store by the instruction at `pc` to the next address is the word the next step fetches; a store to its own address
does not change what it does, and is fetched when `pc` comes back (decisions D14, D26; log entries 18, 23). -/
def Obligations.StoredWordIsFetchedNext : Prop :=
  ∀ (s : State) (rx rs : Reg), s.phase = .fetch → decode (s.memRead s.pc) = .ok (.st rx rs) →
    ∃ t, step s = .next t ∧ t.pc = s.pc + 1 ∧ t.phase = .fetch ∧
      (s.reg rx = s.pc + 1 → (fetchPulse t).ir = s.reg rs) ∧
      (s.reg rx = s.pc → t.ir = s.memRead s.pc ∧ (fetchPulse (t.goto s.pc)).ir = s.reg rs)

/-- IN reads what the host or a device put on the input side of the port, and on a port nobody drives a free value; it
changes nothing else but the count of free values (decisions D15, D25; log entries 7, 8). -/
def Obligations.InReadsInputSide : Prop :=
  ∀ (rd rx : Reg) (s : State), Completes (.ioIn rd rx) s (fun t =>
    (∀ v, s.input.cell (s.reg rx).toNat = some v → t.reg rd = v) ∧
    (s.input.cell (s.reg rx).toNat = none → t.reg rd = Config.undrivenInput s.draws (s.reg rx)) ∧
    t.flags = s.flags ∧ Advanced s t ∧
    KeepsRegs [rd] s t ∧ KeepsMemory s t ∧ KeepsInput s t ∧ KeepsOutput s t ∧ KeepsHidden s t)

/-- OUT commits the source register to the port the address register names, and to no other; the input side of the port is
untouched, and the pair is recorded (decisions D15, D25; log entry 7 for the record). -/
def Obligations.OutCommitsOutput : Prop :=
  ∀ (rx rs : Reg) (s : State), Completes (.ioOut rx rs) s (fun t =>
    t.readOutput (s.reg rx) = s.reg rs ∧
    (∀ p, s.reg rx ≠ p → t.readOutput p = s.readOutput p) ∧
    t.outTrace = s.outTrace ++ [(s.reg rx, s.reg rs)] ∧
    t.flags = s.flags ∧ Advanced s t ∧
    KeepsRegs [] s t ∧ KeepsMemory s t ∧ KeepsInput s t ∧ KeepsHidden s t ∧ t.draws = s.draws)

/-- Whole-machine frame: only ST changes memory, only OUT the output side of the ports, and no instruction changes the input
side, the next-instruction register or the bootloader's counter (decisions D14, D15; log entry 18). -/
def Obligations.OnlyStoreAndOutReachMemoryAndPorts : Prop :=
  ∀ (i : Instr) (s t : State), exec i s = .next t →
    ((∀ rx rs, i ≠ .st rx rs) → KeepsMemory s t) ∧
    ((∀ rx rs, i ≠ .ioOut rx rs) → KeepsOutput s t) ∧
    KeepsInput s t ∧ KeepsHidden s t

/-! ## Invariant and reset -/

/-- Every step keeps the invariant, from every state that has it: canonical stores, phase Fetch, and the output buffers in
agreement with the record of outputs (the record is the model's own, log entry 7). -/
def Obligations.StepKeepsInvariant : Prop :=
  ∀ s t : State, s.Inv → step s = .next t → t.Inv

/-- The state after reset has the invariant (log entry 6). -/
def Obligations.ResetHasInvariant : Prop := State.reset.Inv

/-- What the spec says of the state after `reset()`: `pc` 0, not halted, phase Fetch, the bootloader at rest; and the record of
outputs, the model's own field, is empty (the empty ROM is log entry 6, the record log entry 7). -/
def Obligations.ResetStateValues : Prop :=
  State.reset.pc = 0x0000#16 ∧ State.reset.halted = false ∧ State.reset.phase = .fetch ∧
  bootWriteEnable [] State.reset = false ∧ State.reset.outTrace = []

/-- `reset()` from any state, the fault state included: the ROM is in memory from address 0, `pc` is 0, `halted` is 0, the
phase is Fetch, the bootloader's counter is N, and registers, flags, other memory, ports and next-instruction register are
whatever the unspecified values are (log entry 34). The bootloader's reset pulse and N edges establish it with those values
kept (log entries 7, 27, 34), and so do the gate backend's for a Computer of either realisation (log entry 36). -/
def Obligations.ResetLoadsRomAndClears : Prop :=
  (∀ (rom : List Word) (u : Unspecified) (s : State), rom.length ≤ 65535 →
    let t := resetWith rom u s
    t.pc = 0x0000#16 ∧ t.halted = false ∧ t.phase = .fetch ∧ t.bootCount = BitVec.ofNat 16 rom.length ∧
    (∀ (k : Nat) (h : k < rom.length), t.memRead (BitVec.ofNat 16 k) = rom[k]) ∧
    (∀ k, rom.length ≤ k → t.mem.cell k = u.mem.cell k) ∧
    t.regs = u.regs ∧ t.flags = u.flags ∧ t.ir = u.ir ∧
    t.input = u.input ∧ t.out = u.out ∧ t.outPending = u.outPending ∧
    bootLoad rom s = resetWith rom (Unspecified.kept s) s) ∧
  (∀ (c : Computer) (u : Unspecified), (c.reset u).status = .ready) ∧
  (∀ (c : Computer) (u : Unspecified), (c.backend = .interpreter ∨ c.rom.length ≤ 65535) →
    (c.reset u).state = resetWith c.rom u c.state)

/-- For a ROM of length N, the bootloader presents `(i, rom[i])` at cycles `0..N-1` after a reset pulse with write-enable
high, then holds write-enable low for good. -/
def Obligations.BootloaderPresentsRomOnce : Prop :=
  ∀ (rom : List Word) (s : State) (k : Nat), rom.length ≤ 65535 →
    let b := bootEdges rom k (resetPulse s)
    (k < rom.length → bootWriteEnable rom b = true ∧ bootAddress b = BitVec.ofNat 16 k ∧ bootData rom b = rom[k]?) ∧
    (rom.length ≤ k → bootWriteEnable rom b = false)

/-- While the bootloader writes, the CPU is disabled: a pulse of the gate machine is an edge of the bootloader, and nothing of
the CPU's changes at it; devices are still updated; when write-enable falls the CPU is enabled with `pc` 0 and phase
Fetch. This is R378 for the gate backend; that the interpreter's load too has N edges, with one round of updates at each, is the
model's choice (decision D34, log entry 26). -/
def Obligations.BootloaderHoldsCpuDisabled : Prop :=
  ∀ (m : Realisation) (s : State) (k : Nat) (ds : List Device), m.rom.length ≤ 65535 →
    let b := bootEdges m.rom k (resetPulse s)
    let e := bootEdge m.rom b
    (k < m.rom.length →
      cpuEnabled m.rom b = false ∧ gateCpuEnabled m.rom b = false ∧
      machinePulse m.rom b = .next e ∧ m.bootEdge b = e ∧
      e.regs = b.regs ∧ e.flags = b.flags ∧ e.halted = b.halted ∧ e.ir = b.ir ∧ e.phase = b.phase ∧
      e.out = b.out ∧ e.outPending = b.outPending ∧ e.outTrace = b.outTrace ∧
      (Board.bootEdge ⟨m, ds, b⟩).devices = (updateDevices ds b).1) ∧
    (k = m.rom.length →
      cpuEnabled m.rom b = true ∧ gateCpuEnabled m.rom b = true ∧ b.pc = 0x0000#16 ∧ b.phase = .fetch)

/-! ## The gate backend -/

/-- Two pulses of the gate CPU are one step, and so for any number of instructions, in every state that stands between
instructions with the bootloader at rest: the two realisations agree, the fault on a reserved word included (decision D17
gives both the same fault; log entry 20). -/
def Obligations.GatePulsesAreSteps : Prop :=
  ∀ (rom : List Word) (s : State) (k : Nat), s.phase = .fetch → bootWriteEnable rom s = false →
    machinePulses rom (2 * k) s = runSteps k s

/-- NOT, AND, OR, NOR and XNOR are the compositions the spec gives, written out in one, two, three and four NANDs, with the
truth tables it gives; XOR's composition is the spec's own inference (R265). -/
def Obligations.GatesFromNand : Prop :=
  ∀ a b : Bool,
    (notGate a = nandGate a a ∧ notGate a = !a) ∧
    (andGate a b = notGate (nandGate a b) ∧ (let n := nandGate a b; andGate a b = nandGate n n) ∧
      andGate a b = (a && b)) ∧
    (orGate a b = nandGate (notGate a) (notGate b) ∧ orGate a b = nandGate (nandGate a a) (nandGate b b) ∧
      orGate a b = (a || b)) ∧
    (norGate a b = notGate (orGate a b) ∧
      (let o := nandGate (nandGate a a) (nandGate b b); norGate a b = nandGate o o) ∧ norGate a b = !(a || b)) ∧
    (xorGate a b = andGate (orGate a b) (nandGate a b) ∧ xorGate a b = (a != b)) ∧
    (xnorGate a b = notGate (xorGate a b) ∧ xnorGate a b = (a == b))

/-- A chain of full adders adds: the sum bus and the carry out of the top bit are the two parts of `a + b + carry-in`; the
carry into the top bit is the carry out of the chain below it, and the two carries differ exactly on signed overflow (the
ripple arrangement and the carry formula are not the source's, R186, R267 to R269; log entry 30). -/
def Obligations.AdderChainAdds : Prop :=
  (∀ (a b : Bus) (carryIn : Bool), a.length = b.length →
    let r := adderChain carryIn a b
    r.sum.length = a.length ∧
    busValue r.sum + r.carryOut.toNat * 2 ^ a.length = busValue a + busValue b + carryIn.toNat) ∧
  (∀ (x y : Bool) (a b : Bus) (carryIn : Bool), a.length = b.length →
    let r := adderChain carryIn (x :: a) (y :: b)
    busValue r.sum.tail + r.carryIntoTop.toNat * 2 ^ a.length = busValue a + busValue b + carryIn.toNat ∧
    ((r.carryIntoTop != r.carryOut) = true ↔ x = y ∧ r.sum.head? ≠ some x))

/-- The zero detector's output is 1 exactly when every input bit is 0, for every width of at least one bit (base cases by
decision D33; log entry 30). -/
def Obligations.IsZeroDetectsZero : Prop :=
  ∀ b : Bus, b ≠ [] → (isZeroGate b = true ↔ busValue b = 0)

/-- A multiplexer tree selects the addressed input and a demultiplexer tree routes to the addressed output, 0 elsewhere
(polarity by decision D33; log entry 30). -/
def Obligations.MuxAndDmuxSelect : Prop :=
  (∀ (addr : Bus) (inputs : List Bus) (width : Nat), inputs.length = 2 ^ addr.length →
    (∀ b ∈ inputs, b.length = width) → some (muxTree addr inputs) = inputs[busValue addr]?) ∧
  (∀ (addr : Bus) (x : Bool), (dmuxTree addr x).length = 2 ^ addr.length ∧
    ∀ k, k < 2 ^ addr.length → (dmuxTree addr x)[k]? = some (x && decide (k = busValue addr)))

/-- A DFF samples its input on tick and shows it from tock on. -/
def Obligations.DffSamplesThenCommits : Prop :=
  ∀ (c : Dff) (d : Bool), (c.tick d).latched = d ∧ (c.tick d).committed = c.committed ∧
    (c.tick d).tock.committed = d ∧ ∀ d', ((c.tick d).tick d').tock.committed = d'

/-- A register's pulse: the input when write-enable is high, its own value when low, by a mux before each cell, every cell
clocked at every pulse. -/
def Obligations.RegisterLoadsUnderWriteEnable : Prop :=
  ∀ (r : Register) (we : Bool) (input : Bus), input.length = r.length →
    (r.tick we input).out = r.out ∧
    (r.tick we input).tock.out = (if we then input else r.out) ∧
    (∀ c ∈ (r.tick we input).tock, c.committed = c.latched) ∧
    ∀ (c : Dff) (d : Bool), Register.tick [c] we [d] = [c.tick (muxGate we c.committed d)]

/-- A Ram tree of any depth reads the addressed cell combinationally; at a pulse with write-enable the addressed cell takes
the input, every other cell keeps its value, and nothing shows before the tock (the tree's base case is a derived one,
R281; log entry 30). -/
def Obligations.RamPulseWritesAddressedCell : Prop :=
  ∀ (depth width : Nat) (t : RamTree) (addr addr' input : Bus) (we : Bool), t.shaped width depth = true →
    addr.length = depth → addr'.length = depth → input.length = width →
    (t.pulse addr we input).shaped width depth = true ∧
    (t.tick addr we input).read addr' = t.read addr' ∧
    (t.pulse addr we input).read addr' = (if we = true ∧ addr' = addr then input else t.read addr')

/-- A VirtualRam that agrees with a Ram tree on every cell agrees with it after the tick and after the tock of every pulse
with the same inputs: it is a drop-in substitute (log entry 30). -/
def Obligations.VirtualRamMatchesRamTree : Prop :=
  ∀ (depth : Nat) (t : RamTree) (m : VirtualRam) (addr input : Bus) (we : Bool), t.shaped 16 depth = true →
    addr.length = depth → input.length = 16 →
    (∀ a : Bus, a.length = depth → m.cells.cell (busValue a) = some (wordOfBus (t.read a))) →
    (∀ a : Bus, a.length = depth →
      (m.tick addr we input).cells.cell (busValue a) = some (wordOfBus ((t.tick addr we input).read a))) ∧
    (∀ a : Bus, a.length = depth →
      (m.pulse addr we input).cells.cell (busValue a) = some (wordOfBus ((t.pulse addr we input).read a)))

/-- A sink binds once: binding a bound sink is refused and binding a free one makes that binding and no other; buses of
unequal widths are refused; a netlist one of whose sinks is not bound exactly once is not evaluated (what a refusal is:
decision D27, log entry 29). -/
def Obligations.SinksBindOnce : Prop :=
  ∀ (n : Netlist) (sink source : Nat),
    ((∃ old, n.boundTo sink = some old) → n.bind sink source = .error .sinkRebound) ∧
    (n.boundTo sink = none → ∃ n', n.bind sink source = .ok n' ∧ n'.boundTo sink = some source ∧
      (∀ k, k ≠ sink → n'.boundTo k = n.boundTo k) ∧ n'.sources = n.sources ∧ n'.cells = n.cells) ∧
    (∀ sinks sources : List Nat, sinks.length ≠ sources.length → n.bindBus sinks sources = .error .widthMismatch) ∧
    ((∃ k ∈ n.sinks, n.bindings.countP (fun b => b.1 == k) ≠ 1) → ∀ e : Engine,
      Engine.readSource n source e = .error .malformedNetlist ∧ e.tick n = .error .malformedNetlist ∧
      e.pulse n = .error .malformedNetlist)

/-- A gate one of whose own sinks is bound to its output has no value: evaluation is refused, at every fuel (log
entry 29). -/
def Obligations.SelfFeedingGateHasNoValue : Prop :=
  ∀ (n : Netlist) (l : Levels) (source sinkA sinkB : Nat), n.sources[source]? = some (.nand sinkA sinkB) →
    (n.boundTo sinkA = some source ∨ n.boundTo sinkB = some source) →
    ∀ (fuel : Nat) (active : List Nat), ∃ r, n.value l fuel active source = .error r

/-- Memoisation changes no value: what a memoised read answers with a fresh nonce is the value plain recursion over the
netlist gives, whatever was remembered for other nonces (log entry 31 says how the model holds a netlist). -/
def Obligations.MemoisedReadAgreesWithPlainEvaluation : Prop :=
  ∀ (n : Netlist) (e e' : Engine) (fuel source : Nat) (b : Bool),
    (∀ m ∈ e.memo, m.1 ≠ e.nonce) → Engine.read n fuel [] source e = .ok (b, e') →
    (∃ k, n.value e.levels k [] source = .ok b) ∧ e'.levels = e.levels ∧ e'.nonce = e.nonce

/-! ## Devices, debug channel and the host -/

/-- An IO write executed at an edge is seen by the devices' updates from the next edge on, in both realisations and with any
number of devices: at the write's own edge each device observes the outputs committed before it, at the next edge the written
value. For the gate backend the edges are the spec's (R344, R348); that the interpreter has the same two edges with one round of
updates at each is the model's choice, R345 and U13 leaving its count open (decision D34, log entry 26). -/
def Obligations.DeviceSeesWriteOneEdgeLater : Prop :=
  ∀ (m : Realisation) (ds : List Device) (s : State) (rx rs : Reg), m.enabled s = true → s.phase = .execute →
    decode s.ir = .ok (.ioOut rx rs) →
    let observing (u : State) (d : Device) : Device :=
      { d with words := (d.react d.words (d.outPorts.map u.readOutput)).1 }
    let ds1 := ds.map (observing s)
    ∃ t t' : State,
      Board.executeEdge ⟨m, ds, s⟩ = .next ⟨m, ds1, t⟩ ∧
      (∀ p, t.readOutput p = if p = s.reg rx then s.reg rs else s.readOutput p) ∧
      Board.fetchEdge ⟨m, ds1, t⟩ = .next ⟨m, ds1.map (observing t), t'⟩

/-- Installing a device is refused exactly when one of its declared ports is an installed device's; else it is added (which
sets are compared, and that a device installed last is updated last, is log entry 26). -/
def Obligations.InstallRefusesPortCollision : Prop :=
  ∀ (ds : List Device) (d : Device),
    ((∃ e ∈ ds, ∃ p, p ∈ d.ports ∧ p ∈ e.ports) → install ds d = .error .portCollision) ∧
    ((∀ e ∈ ds, ∀ p, p ∈ d.ports → p ∉ e.ports) → install ds d = .ok (ds ++ [d]))

/-- With no device installed, the two edges of an instruction are one step in both realisations, whichever way the open
same-edge question goes (log entry 9); and with any devices the gate backend ends an instruction as the interpreter does,
devices included. That agreement is by the model's choice: the interpreter runs `update()` as often as the gate backend
(R345 and U13 leave its count open, decision D34, log entry 26), and the same-edge question has one answer for both (log
entry 9). That both fault on a reserved word is decision D17 (log entry 20). -/
def Obligations.BoardWithoutDevicesIsStep : Prop :=
  (∀ (m : Realisation) (s : State), m.enabled s = true →
    (∀ t, step s = .next t → Board.runInstruction ⟨m, [], s⟩ = .next ⟨m, [], t⟩) ∧
    (∀ f, step s = .fault f → Board.runInstruction ⟨m, [], s⟩ = .fault f)) ∧
  (∀ (rom : List Word) (ds ds' : List Device) (s : State), gateCpuEnabled rom s = true →
    (∀ t, Board.runInstruction ⟨⟨.interpreter, rom⟩, ds, s⟩ = .next ⟨⟨.interpreter, rom⟩, ds', t⟩ →
      Board.runInstruction ⟨⟨.gates, rom⟩, ds, s⟩ = .next ⟨⟨.gates, rom⟩, ds', t⟩) ∧
    (∀ f, Board.runInstruction ⟨⟨.interpreter, rom⟩, ds, s⟩ = .fault f →
      Board.runInstruction ⟨⟨.gates, rom⟩, ds, s⟩ = .fault f))

/-- Debug reads interleaved with normal execution and injection in any order change nothing, in both realisations: the
requests give what they give with the reads left out. Each read answers the current value; that `IP` and `FLAGS` are among
the registers read, and their values, are decisions D35 and D12 (log entries 25, 17). Whatever device updates a read of the
contract costs, it leaves everything but the input side of the ports as it was (log entry 25). -/
def Obligations.DebugReadsPerturbNothing : Prop :=
  (∀ (m : Realisation) (reqs : List DebugRequest) (s : State),
    serveAll m reqs s = serveAll m (reqs.filter (fun req => !req.isRead)) s ∧
    (∀ r, serveDebug m (.readRegister r) s = .next ⟨s, some (m.debugRegister r s)⟩) ∧
    (∀ a, serveDebug m (.readMemory a) s = .next ⟨s, some (s.memRead a)⟩) ∧
    (∀ r, m.debugRegister (.writable r) s = s.reg r) ∧ m.debugRegister .ip s = s.pc ∧
    (m.debugRegister .flags s).toNat = 4 * s.flags.z.toNat + 2 * s.flags.n.toNat + s.flags.v.toNat) ∧
  (∀ (c : Computer) (r : RegId) (a : Word) (rounds : Nat),
    (c.debugRegister r rounds).1 = c.machine.debugRegister r c.state ∧
    (c.debugMemory a rounds).1 = c.state.memRead a ∧
    (c.debugMemory a rounds).2 = (c.debugRegister r rounds).2 ∧
    (c.debugRegister r rounds).2.status = c.status ∧
    ∃ inp, (c.debugRegister r rounds).2.state = { c.state with input := inp })

/-- `runInstructions` runs every injected instruction in order and then puts back `pc` and `Q`, whatever they did to them;
everything else they changed stays changed, in both realisations. -/
def Obligations.InjectionRestoresIpAndQ : Prop :=
  ∀ (m : Realisation) (is : List Instr) (haltedAfter : Bool) (s : State), ∃ t u : State,
    injectInstructions m is haltedAfter s = .next t ∧ injectAll m is s = .next u ∧
    t.pc = s.pc ∧ t.reg .q = s.reg .q ∧
    (∀ r, r ≠ .q → t.reg r = u.reg r) ∧ t.flags = u.flags ∧ (∀ a, t.memRead a = u.memRead a) ∧
    t.out = u.out ∧ t.outPending = u.outPending ∧ t.outTrace = u.outTrace ∧ t.input = s.input

/-- `runUntilHalt` on a Computer of either realisation without devices: what it returns ready is the state just after the
first HLT of at least one instruction, even when called halted; and where a first HLT comes within the fuel it returns just
that (decisions D22, D23; log entry 22). -/
def Obligations.RunUntilHaltStopsAtFirstHlt : Prop :=
  ∀ (fuel : Nat) (c : Computer), c.devices = [] → c.state.phase = .fetch → c.machine.enabled c.state = true →
    (∀ c', Computer.runUntilHalt fuel c = some (.ok c') → c'.status = .ready →
      ∃ k, 0 < k ∧ k ≤ fuel ∧ runSteps k c.state = .next c'.state ∧ c'.final = true ∧
        ∀ j, 0 < j → j < k → ¬Final (runSteps j c.state)) ∧
    (∀ k t, c.status = .ready → 0 < k → k ≤ fuel → runSteps k c.state = .next t → Final (runSteps k c.state) →
      (∀ j, 0 < j → j < k → ¬Final (runSteps j c.state)) →
      Computer.runUntilHalt fuel c = some (.ok { c with state := t }))

/-- A DecodeFault leaves every piece of state as it was and records word and address; the fault state is never final, every
operation that runs or changes the Computer is refused in it, a debug read leaves it as it is, and `reset()` leaves it
(decisions D17, D27; log entry 29). -/
def Obligations.FaultStateLeftOnlyByReset : Prop :=
  (∀ (c : Computer) (w a : Word), c.status = .ready → c.devices = [] → c.machine.enabled c.state = true →
    step c.state = .fault (.decodeFault w a) → c.runNextInstruction = .ok { c with status := .faulted w a }) ∧
  (∀ (c : Computer) (w a : Word), c.status = .faulted w a →
    c.final = false ∧
    c.runNextInstruction = .error .afterFault ∧
    (∀ fuel, Computer.runUntilHalt (fuel + 1) c = some (.error .afterFault)) ∧
    (∀ is rounds h, c.runInstructions is rounds h = .error .afterFault) ∧
    (∀ d, c.install d = .error .afterFault) ∧
    (∀ p v, c.writeInput p v = .error .afterFault) ∧
    (∀ r rounds, (c.debugRegister r rounds).2 = c) ∧ (∀ x rounds, (c.debugMemory x rounds).2 = c) ∧
    (∀ u, (c.reset u).status = .ready))
end

