-- ==== Sys2Proof/Laws/Gates.lean ====
section
/-!
SUPPORT. One lemma per primitive of the gate backend, saying what it computes.
-/

namespace Sys2Proof.Machine

@[simp] theorem notGate_eq (a : Bool) : notGate a = !a := by cases a <;> rfl
@[simp] theorem andGate_eq (a b : Bool) : andGate a b = (a && b) := by cases a <;> cases b <;> rfl
@[simp] theorem orGate_eq (a b : Bool) : orGate a b = (a || b) := by cases a <;> cases b <;> rfl
@[simp] theorem muxGate_eq (sel a b : Bool) : muxGate sel a b = if sel then b else a := by
  cases sel <;> cases a <;> cases b <;> rfl

/-- A switch passes its second input when selected, else its first. -/
theorem busSwitch_eq (sel : Bool) {x y : Bus} (h : x.length = y.length) :
    busSwitch sel x y = if sel then y else x := by
  unfold busSwitch
  induction x generalizing y with
  | nil => cases y <;> cases sel <;> simp_all
  | cons a x ih =>
    cases y with
    | nil => simp at h
    | cons b y => cases sel <;> simp_all

/-- A register takes its input under its write-enable, else holds. -/
theorem registerPulse_eq (we : Bool) {input held : Bus} (h : input.length = held.length) :
    registerPulse we input held = if we then input else held := by
  unfold registerPulse Register.holding Register.tick Register.tock Register.out
  induction held generalizing input with
  | nil => cases input <;> cases we <;> simp_all
  | cons a held ih =>
    cases input with
    | nil => simp at h
    | cons b input => cases we <;> simp_all [Dff.tick, Dff.tock]

@[simp] theorem busOf_length {n : Nat} (w : BitVec n) : (busOf w).length = n := by simp [busOf]

@[simp] theorem zerosLike_length (b : Bus) : (zerosLike b).length = b.length := by simp [zerosLike]

/-- An adder's sum is as wide as its inputs. -/
theorem adderChain_length (c : Bool) (a b : Bus) (h : a.length = b.length) :
    (adderChain c a b).sum.length = a.length := by
  induction a generalizing b with
  | nil => cases b <;> simp_all [adderChain]
  | cons x a ih =>
    cases b with
    | nil => simp at h
    | cons y b => simp [adderChain, ih b (by simpa using h)]

/-- What a VirtualRam holds after a pulse: the one write under its write-enable. -/
theorem virtualRam_pulse_cells (cells : Memory) (addr : Bus) (we : Bool) (input : Bus) :
    (VirtualRam.pulse ⟨cells, none⟩ addr we input).cells =
      if we then cells.put (busValue addr) (wordOfBus input) else cells := by
  cases we <;> rfl

/-- What the gate bootloader's edge can change: memory, its counter and the program counter. -/
theorem gateBootEdge_frame (rom : List Word) (s : State) :
    gateBootEdge rom s =
      { s with mem := gateBootMemory rom s, bootCount := (gateBootEdge rom s).bootCount,
               pc := (gateBootEdge rom s).pc } := rfl

end Sys2Proof.Machine
end

