-- ==== Sys2Proof/Laws/Memory.lean ====
section
/-!
SUPPORT. The laws of the sparse stores: read after write, a write leaves every other index alone, and every operation keeps
the canonical form.
-/

namespace Sys2Proof.Machine

@[simp] theorem cell_nil (i : Nat) : Memory.cell [] i = none := rfl

theorem cell_put_same (m : Memory) (i : Nat) (v : Word) : (m.put i v).cell i = some v := by
  induction m with
  | nil => simp [Memory.put, Memory.cell]
  | cons head rest ih =>
    obtain ⟨j, w⟩ := head
    simp only [Memory.put]
    split
    · simp [Memory.cell]
    · split
      · simp [Memory.cell]
      · rename_i hne
        simp [Memory.cell, Ne.symm hne, ih]

theorem cell_put_other (m : Memory) {i j : Nat} (v : Word) (h : j ≠ i) : (m.put i v).cell j = m.cell j := by
  induction m with
  | nil => simp [Memory.put, Memory.cell, Ne.symm h]
  | cons head rest ih =>
    obtain ⟨k, w⟩ := head
    simp only [Memory.put]
    split
    · simp [Memory.cell, Ne.symm h]
    · split
      · rename_i heq
        subst heq
        simp [Memory.cell, Ne.symm h]
      · simp [Memory.cell, ih]

theorem cell_put (m : Memory) (i j : Nat) (v : Word) :
    (m.put i v).cell j = if j = i then some v else m.cell j := by
  split
  · rename_i h; rw [h, cell_put_same]
  · rename_i h; exact cell_put_other m v h

/-- An entry of a written memory is the written one or an old one. -/
theorem mem_put {m : Memory} {i : Nat} {v : Word} {x : Nat × Word} (h : x ∈ m.put i v) : x = (i, v) ∨ x ∈ m := by
  induction m with
  | nil => simpa [Memory.put] using h
  | cons head rest ih =>
    obtain ⟨j, w⟩ := head
    simp only [Memory.put] at h
    split at h
    · simpa using h
    · split at h
      · simp only [List.mem_cons] at h ⊢
        tauto
      · simp only [List.mem_cons] at h ⊢
        rcases h with h | h
        · tauto
        · rcases ih h with h | h <;> tauto

theorem put_rising {m : Memory} (i : Nat) (v : Word) (h : m.Pairwise (fun x y => x.1 < y.1)) :
    (m.put i v).Pairwise (fun x y => x.1 < y.1) := by
  induction m with
  | nil => simp [Memory.put]
  | cons head rest ih =>
    obtain ⟨j, w⟩ := head
    obtain ⟨hj, hrest⟩ := List.pairwise_cons.mp h
    simp only [Memory.put]
    split
    · rename_i hlt
      refine List.pairwise_cons.mpr ⟨fun x hx => ?_, h⟩
      rcases List.mem_cons.mp hx with hx | hx
      · subst hx; exact hlt
      · exact lt_trans hlt (hj x hx)
    · split
      · rename_i heq
        subst heq
        exact List.pairwise_cons.mpr ⟨hj, hrest⟩
      · rename_i hge hne
        refine List.pairwise_cons.mpr ⟨fun x hx => ?_, ih hrest⟩
        rcases mem_put hx with hx | hx
        · subst hx; show j < i; omega
        · exact hj x hx

/-- A write keeps the canonical form. -/
theorem put_wf {m : Memory} {i : Nat} (v : Word) (h : m.wf) (hi : i < 65536) : (m.put i v).wf := by
  refine ⟨put_rising i v h.1, fun x hx => ?_⟩
  rcases mem_put hx with hx | hx
  · subst hx; exact hi
  · exact h.2 x hx

theorem put_word_wf {m : Memory} (a v : Word) (h : m.wf) : (m.put a.toNat v).wf := put_wf v h a.isLt

/-- Loading a list of words keeps the canonical form. -/
theorem putAll_wf {m : Memory} {i : Nat} (ws : List Word) (h : m.wf) (hi : i + ws.length ≤ 65536) :
    (m.putAll i ws).wf := by
  induction ws generalizing m i with
  | nil => exact h
  | cons w ws ih =>
    simp only [List.length_cons] at hi
    exact ih (put_wf w h (by omega)) (by omega)

/-- What a loaded memory lists: the loaded words, and the old entries elsewhere. -/
theorem cell_putAll (m : Memory) (i j : Nat) (ws : List Word) :
    (m.putAll i ws).cell j = if i ≤ j ∧ j < i + ws.length then ws[j - i]? else m.cell j := by
  induction ws generalizing m i with
  | nil => simp [Memory.putAll]
  | cons w ws ih =>
    simp only [Memory.putAll, ih, cell_put, List.length_cons]
    by_cases hj : j = i
    · subst hj; simp
    · by_cases h : i ≤ j ∧ j < i + (ws.length + 1)
      · have h1 : i + 1 ≤ j ∧ j < i + 1 + ws.length := by omega
        have h2 : j - i = (j - (i + 1)) + 1 := by omega
        rw [if_pos h, if_pos h1, h2, List.getElem?_cons_succ]
      · have h1 : ¬(i + 1 ≤ j ∧ j < i + 1 + ws.length) := by omega
        rw [if_neg h, if_neg h1, if_neg hj]

theorem nil_wf : Memory.wf [] := ⟨List.Pairwise.nil, by simp⟩

end Sys2Proof.Machine
end

