-- ==== Sys2Proof/Laws/State.lean ====
section
/-!
SUPPORT. One lemma per field per update of the state, all true by definition.
-/

namespace Sys2Proof.Machine

/-! ### setReg -/

@[simp] theorem setReg_regs (s : State) (r : Reg) (v : Word) : (s.setReg r v).regs = s.regs.set r v := rfl
@[simp] theorem setReg_pc (s : State) (r : Reg) (v : Word) : (s.setReg r v).pc = s.pc := rfl
@[simp] theorem setReg_flags (s : State) (r : Reg) (v : Word) : (s.setReg r v).flags = s.flags := rfl
@[simp] theorem setReg_halted (s : State) (r : Reg) (v : Word) : (s.setReg r v).halted = s.halted := rfl
@[simp] theorem setReg_mem (s : State) (r : Reg) (v : Word) : (s.setReg r v).mem = s.mem := rfl
@[simp] theorem setReg_input (s : State) (r : Reg) (v : Word) : (s.setReg r v).input = s.input := rfl
@[simp] theorem setReg_outPending (s : State) (r : Reg) (v : Word) : (s.setReg r v).outPending = s.outPending := rfl
@[simp] theorem setReg_out (s : State) (r : Reg) (v : Word) : (s.setReg r v).out = s.out := rfl
@[simp] theorem setReg_ir (s : State) (r : Reg) (v : Word) : (s.setReg r v).ir = s.ir := rfl
@[simp] theorem setReg_phase (s : State) (r : Reg) (v : Word) : (s.setReg r v).phase = s.phase := rfl
@[simp] theorem setReg_bootCount (s : State) (r : Reg) (v : Word) : (s.setReg r v).bootCount = s.bootCount := rfl
@[simp] theorem setReg_outTrace (s : State) (r : Reg) (v : Word) : (s.setReg r v).outTrace = s.outTrace := rfl
@[simp] theorem setReg_draws (s : State) (r : Reg) (v : Word) : (s.setReg r v).draws = s.draws := rfl

/-! ### setFlags -/

@[simp] theorem setFlags_regs (s : State) (f : Flags) : (s.setFlags f).regs = s.regs := rfl
@[simp] theorem setFlags_pc (s : State) (f : Flags) : (s.setFlags f).pc = s.pc := rfl
@[simp] theorem setFlags_flags (s : State) (f : Flags) : (s.setFlags f).flags = f := rfl
@[simp] theorem setFlags_halted (s : State) (f : Flags) : (s.setFlags f).halted = s.halted := rfl
@[simp] theorem setFlags_mem (s : State) (f : Flags) : (s.setFlags f).mem = s.mem := rfl
@[simp] theorem setFlags_input (s : State) (f : Flags) : (s.setFlags f).input = s.input := rfl
@[simp] theorem setFlags_outPending (s : State) (f : Flags) : (s.setFlags f).outPending = s.outPending := rfl
@[simp] theorem setFlags_out (s : State) (f : Flags) : (s.setFlags f).out = s.out := rfl
@[simp] theorem setFlags_ir (s : State) (f : Flags) : (s.setFlags f).ir = s.ir := rfl
@[simp] theorem setFlags_phase (s : State) (f : Flags) : (s.setFlags f).phase = s.phase := rfl
@[simp] theorem setFlags_bootCount (s : State) (f : Flags) : (s.setFlags f).bootCount = s.bootCount := rfl
@[simp] theorem setFlags_outTrace (s : State) (f : Flags) : (s.setFlags f).outTrace = s.outTrace := rfl
@[simp] theorem setFlags_draws (s : State) (f : Flags) : (s.setFlags f).draws = s.draws := rfl

/-! ### goto -/

@[simp] theorem goto_regs (s : State) (a : Word) : (s.goto a).regs = s.regs := rfl
@[simp] theorem goto_pc (s : State) (a : Word) : (s.goto a).pc = a := rfl
@[simp] theorem goto_flags (s : State) (a : Word) : (s.goto a).flags = s.flags := rfl
@[simp] theorem goto_halted (s : State) (a : Word) : (s.goto a).halted = false := rfl
@[simp] theorem goto_mem (s : State) (a : Word) : (s.goto a).mem = s.mem := rfl
@[simp] theorem goto_input (s : State) (a : Word) : (s.goto a).input = s.input := rfl
@[simp] theorem goto_outPending (s : State) (a : Word) : (s.goto a).outPending = s.outPending := rfl
@[simp] theorem goto_out (s : State) (a : Word) : (s.goto a).out = s.out := rfl
@[simp] theorem goto_ir (s : State) (a : Word) : (s.goto a).ir = s.ir := rfl
@[simp] theorem goto_phase (s : State) (a : Word) : (s.goto a).phase = s.phase := rfl
@[simp] theorem goto_bootCount (s : State) (a : Word) : (s.goto a).bootCount = s.bootCount := rfl
@[simp] theorem goto_outTrace (s : State) (a : Word) : (s.goto a).outTrace = s.outTrace := rfl
@[simp] theorem goto_draws (s : State) (a : Word) : (s.goto a).draws = s.draws := rfl

/-! ### advance -/

@[simp] theorem advance_regs (s : State) : (s.advance).regs = s.regs := rfl
@[simp] theorem advance_pc (s : State) : (s.advance).pc = s.pc + 1 := rfl
@[simp] theorem advance_flags (s : State) : (s.advance).flags = s.flags := rfl
@[simp] theorem advance_halted (s : State) : (s.advance).halted = false := rfl
@[simp] theorem advance_mem (s : State) : (s.advance).mem = s.mem := rfl
@[simp] theorem advance_input (s : State) : (s.advance).input = s.input := rfl
@[simp] theorem advance_outPending (s : State) : (s.advance).outPending = s.outPending := rfl
@[simp] theorem advance_out (s : State) : (s.advance).out = s.out := rfl
@[simp] theorem advance_ir (s : State) : (s.advance).ir = s.ir := rfl
@[simp] theorem advance_phase (s : State) : (s.advance).phase = s.phase := rfl
@[simp] theorem advance_bootCount (s : State) : (s.advance).bootCount = s.bootCount := rfl
@[simp] theorem advance_outTrace (s : State) : (s.advance).outTrace = s.outTrace := rfl
@[simp] theorem advance_draws (s : State) : (s.advance).draws = s.draws := rfl

/-! ### halt -/

@[simp] theorem halt_regs (s : State) : (s.halt).regs = s.regs := rfl
@[simp] theorem halt_pc (s : State) : (s.halt).pc = s.pc + 1 := rfl
@[simp] theorem halt_flags (s : State) : (s.halt).flags = s.flags := rfl
@[simp] theorem halt_halted (s : State) : (s.halt).halted = true := rfl
@[simp] theorem halt_mem (s : State) : (s.halt).mem = s.mem := rfl
@[simp] theorem halt_input (s : State) : (s.halt).input = s.input := rfl
@[simp] theorem halt_outPending (s : State) : (s.halt).outPending = s.outPending := rfl
@[simp] theorem halt_out (s : State) : (s.halt).out = s.out := rfl
@[simp] theorem halt_ir (s : State) : (s.halt).ir = s.ir := rfl
@[simp] theorem halt_phase (s : State) : (s.halt).phase = s.phase := rfl
@[simp] theorem halt_bootCount (s : State) : (s.halt).bootCount = s.bootCount := rfl
@[simp] theorem halt_outTrace (s : State) : (s.halt).outTrace = s.outTrace := rfl
@[simp] theorem halt_draws (s : State) : (s.halt).draws = s.draws := rfl

/-! ### memWrite -/

@[simp] theorem memWrite_regs (s : State) (a v : Word) : (s.memWrite a v).regs = s.regs := rfl
@[simp] theorem memWrite_pc (s : State) (a v : Word) : (s.memWrite a v).pc = s.pc := rfl
@[simp] theorem memWrite_flags (s : State) (a v : Word) : (s.memWrite a v).flags = s.flags := rfl
@[simp] theorem memWrite_halted (s : State) (a v : Word) : (s.memWrite a v).halted = s.halted := rfl
@[simp] theorem memWrite_mem (s : State) (a v : Word) : (s.memWrite a v).mem = s.mem.put a.toNat v := rfl
@[simp] theorem memWrite_input (s : State) (a v : Word) : (s.memWrite a v).input = s.input := rfl
@[simp] theorem memWrite_outPending (s : State) (a v : Word) : (s.memWrite a v).outPending = s.outPending := rfl
@[simp] theorem memWrite_out (s : State) (a v : Word) : (s.memWrite a v).out = s.out := rfl
@[simp] theorem memWrite_ir (s : State) (a v : Word) : (s.memWrite a v).ir = s.ir := rfl
@[simp] theorem memWrite_phase (s : State) (a v : Word) : (s.memWrite a v).phase = s.phase := rfl
@[simp] theorem memWrite_bootCount (s : State) (a v : Word) : (s.memWrite a v).bootCount = s.bootCount := rfl
@[simp] theorem memWrite_outTrace (s : State) (a v : Word) : (s.memWrite a v).outTrace = s.outTrace := rfl
@[simp] theorem memWrite_draws (s : State) (a v : Word) : (s.memWrite a v).draws = s.draws := rfl

/-! ### drawn -/

@[simp] theorem drawn_regs (s : State) : (s.drawn).regs = s.regs := rfl
@[simp] theorem drawn_pc (s : State) : (s.drawn).pc = s.pc := rfl
@[simp] theorem drawn_flags (s : State) : (s.drawn).flags = s.flags := rfl
@[simp] theorem drawn_halted (s : State) : (s.drawn).halted = s.halted := rfl
@[simp] theorem drawn_mem (s : State) : (s.drawn).mem = s.mem := rfl
@[simp] theorem drawn_input (s : State) : (s.drawn).input = s.input := rfl
@[simp] theorem drawn_outPending (s : State) : (s.drawn).outPending = s.outPending := rfl
@[simp] theorem drawn_out (s : State) : (s.drawn).out = s.out := rfl
@[simp] theorem drawn_ir (s : State) : (s.drawn).ir = s.ir := rfl
@[simp] theorem drawn_phase (s : State) : (s.drawn).phase = s.phase := rfl
@[simp] theorem drawn_bootCount (s : State) : (s.drawn).bootCount = s.bootCount := rfl
@[simp] theorem drawn_outTrace (s : State) : (s.drawn).outTrace = s.outTrace := rfl
@[simp] theorem drawn_draws (s : State) : (s.drawn).draws = s.draws + 1 := rfl

/-! ### latchOutput -/

@[simp] theorem latchOutput_regs (s : State) (p v : Word) : (s.latchOutput p v).regs = s.regs := rfl
@[simp] theorem latchOutput_pc (s : State) (p v : Word) : (s.latchOutput p v).pc = s.pc := rfl
@[simp] theorem latchOutput_flags (s : State) (p v : Word) : (s.latchOutput p v).flags = s.flags := rfl
@[simp] theorem latchOutput_halted (s : State) (p v : Word) : (s.latchOutput p v).halted = s.halted := rfl
@[simp] theorem latchOutput_mem (s : State) (p v : Word) : (s.latchOutput p v).mem = s.mem := rfl
@[simp] theorem latchOutput_input (s : State) (p v : Word) : (s.latchOutput p v).input = s.input := rfl
@[simp] theorem latchOutput_outPending (s : State) (p v : Word) : (s.latchOutput p v).outPending = s.outPending.put p.toNat v := rfl
@[simp] theorem latchOutput_out (s : State) (p v : Word) : (s.latchOutput p v).out = s.out := rfl
@[simp] theorem latchOutput_ir (s : State) (p v : Word) : (s.latchOutput p v).ir = s.ir := rfl
@[simp] theorem latchOutput_phase (s : State) (p v : Word) : (s.latchOutput p v).phase = s.phase := rfl
@[simp] theorem latchOutput_bootCount (s : State) (p v : Word) : (s.latchOutput p v).bootCount = s.bootCount := rfl
@[simp] theorem latchOutput_outTrace (s : State) (p v : Word) : (s.latchOutput p v).outTrace = s.outTrace ++ [(p, v)] := rfl
@[simp] theorem latchOutput_draws (s : State) (p v : Word) : (s.latchOutput p v).draws = s.draws := rfl

/-! ### commitOutput -/

@[simp] theorem commitOutput_regs (s : State) (p : Word) : (s.commitOutput p).regs = s.regs := rfl
@[simp] theorem commitOutput_pc (s : State) (p : Word) : (s.commitOutput p).pc = s.pc := rfl
@[simp] theorem commitOutput_flags (s : State) (p : Word) : (s.commitOutput p).flags = s.flags := rfl
@[simp] theorem commitOutput_halted (s : State) (p : Word) : (s.commitOutput p).halted = s.halted := rfl
@[simp] theorem commitOutput_mem (s : State) (p : Word) : (s.commitOutput p).mem = s.mem := rfl
@[simp] theorem commitOutput_input (s : State) (p : Word) : (s.commitOutput p).input = s.input := rfl
@[simp] theorem commitOutput_outPending (s : State) (p : Word) : (s.commitOutput p).outPending = s.outPending := rfl
@[simp] theorem commitOutput_ir (s : State) (p : Word) : (s.commitOutput p).ir = s.ir := rfl
@[simp] theorem commitOutput_phase (s : State) (p : Word) : (s.commitOutput p).phase = s.phase := rfl
@[simp] theorem commitOutput_bootCount (s : State) (p : Word) : (s.commitOutput p).bootCount = s.bootCount := rfl
@[simp] theorem commitOutput_outTrace (s : State) (p : Word) : (s.commitOutput p).outTrace = s.outTrace := rfl
@[simp] theorem commitOutput_draws (s : State) (p : Word) : (s.commitOutput p).draws = s.draws := rfl

/-! ### ioWrite -/

@[simp] theorem ioWrite_regs (s : State) (p v : Word) : (s.ioWrite p v).regs = s.regs := rfl
@[simp] theorem ioWrite_pc (s : State) (p v : Word) : (s.ioWrite p v).pc = s.pc := rfl
@[simp] theorem ioWrite_flags (s : State) (p v : Word) : (s.ioWrite p v).flags = s.flags := rfl
@[simp] theorem ioWrite_halted (s : State) (p v : Word) : (s.ioWrite p v).halted = s.halted := rfl
@[simp] theorem ioWrite_mem (s : State) (p v : Word) : (s.ioWrite p v).mem = s.mem := rfl
@[simp] theorem ioWrite_input (s : State) (p v : Word) : (s.ioWrite p v).input = s.input := rfl
@[simp] theorem ioWrite_outPending (s : State) (p v : Word) : (s.ioWrite p v).outPending = s.outPending.put p.toNat v := rfl
@[simp] theorem ioWrite_ir (s : State) (p v : Word) : (s.ioWrite p v).ir = s.ir := rfl
@[simp] theorem ioWrite_phase (s : State) (p v : Word) : (s.ioWrite p v).phase = s.phase := rfl
@[simp] theorem ioWrite_bootCount (s : State) (p v : Word) : (s.ioWrite p v).bootCount = s.bootCount := rfl
@[simp] theorem ioWrite_outTrace (s : State) (p v : Word) : (s.ioWrite p v).outTrace = s.outTrace ++ [(p, v)] := rfl
@[simp] theorem ioWrite_draws (s : State) (p v : Word) : (s.ioWrite p v).draws = s.draws := rfl

/-! ### writeInput -/

@[simp] theorem writeInput_regs (s : State) (p v : Word) : (s.writeInput p v).regs = s.regs := rfl
@[simp] theorem writeInput_pc (s : State) (p v : Word) : (s.writeInput p v).pc = s.pc := rfl
@[simp] theorem writeInput_flags (s : State) (p v : Word) : (s.writeInput p v).flags = s.flags := rfl
@[simp] theorem writeInput_halted (s : State) (p v : Word) : (s.writeInput p v).halted = s.halted := rfl
@[simp] theorem writeInput_mem (s : State) (p v : Word) : (s.writeInput p v).mem = s.mem := rfl
@[simp] theorem writeInput_input (s : State) (p v : Word) : (s.writeInput p v).input = s.input.put p.toNat v := rfl
@[simp] theorem writeInput_outPending (s : State) (p v : Word) : (s.writeInput p v).outPending = s.outPending := rfl
@[simp] theorem writeInput_out (s : State) (p v : Word) : (s.writeInput p v).out = s.out := rfl
@[simp] theorem writeInput_ir (s : State) (p v : Word) : (s.writeInput p v).ir = s.ir := rfl
@[simp] theorem writeInput_phase (s : State) (p v : Word) : (s.writeInput p v).phase = s.phase := rfl
@[simp] theorem writeInput_bootCount (s : State) (p v : Word) : (s.writeInput p v).bootCount = s.bootCount := rfl
@[simp] theorem writeInput_outTrace (s : State) (p v : Word) : (s.writeInput p v).outTrace = s.outTrace := rfl
@[simp] theorem writeInput_draws (s : State) (p v : Word) : (s.writeInput p v).draws = s.draws := rfl

/-! ### fetchPulse -/

@[simp] theorem fetchPulse_regs (s : State) : (fetchPulse s).regs = s.regs := rfl
@[simp] theorem fetchPulse_pc (s : State) : (fetchPulse s).pc = s.pc := rfl
@[simp] theorem fetchPulse_flags (s : State) : (fetchPulse s).flags = s.flags := rfl
@[simp] theorem fetchPulse_halted (s : State) : (fetchPulse s).halted = s.halted := rfl
@[simp] theorem fetchPulse_mem (s : State) : (fetchPulse s).mem = s.mem := rfl
@[simp] theorem fetchPulse_input (s : State) : (fetchPulse s).input = s.input := rfl
@[simp] theorem fetchPulse_outPending (s : State) : (fetchPulse s).outPending = s.outPending := rfl
@[simp] theorem fetchPulse_out (s : State) : (fetchPulse s).out = s.out := rfl
@[simp] theorem fetchPulse_ir (s : State) : (fetchPulse s).ir = s.memRead s.pc := rfl
@[simp] theorem fetchPulse_phase (s : State) : (fetchPulse s).phase = Phase.execute := rfl
@[simp] theorem fetchPulse_bootCount (s : State) : (fetchPulse s).bootCount = s.bootCount := rfl
@[simp] theorem fetchPulse_outTrace (s : State) : (fetchPulse s).outTrace = s.outTrace := rfl
@[simp] theorem fetchPulse_draws (s : State) : (fetchPulse s).draws = s.draws := rfl

/-! ### backToFetch -/

@[simp] theorem backToFetch_regs (s : State) : (backToFetch s).regs = s.regs := rfl
@[simp] theorem backToFetch_pc (s : State) : (backToFetch s).pc = s.pc := rfl
@[simp] theorem backToFetch_flags (s : State) : (backToFetch s).flags = s.flags := rfl
@[simp] theorem backToFetch_halted (s : State) : (backToFetch s).halted = s.halted := rfl
@[simp] theorem backToFetch_mem (s : State) : (backToFetch s).mem = s.mem := rfl
@[simp] theorem backToFetch_input (s : State) : (backToFetch s).input = s.input := rfl
@[simp] theorem backToFetch_outPending (s : State) : (backToFetch s).outPending = s.outPending := rfl
@[simp] theorem backToFetch_out (s : State) : (backToFetch s).out = s.out := rfl
@[simp] theorem backToFetch_ir (s : State) : (backToFetch s).ir = s.ir := rfl
@[simp] theorem backToFetch_phase (s : State) : (backToFetch s).phase = Phase.fetch := rfl
@[simp] theorem backToFetch_bootCount (s : State) : (backToFetch s).bootCount = s.bootCount := rfl
@[simp] theorem backToFetch_outTrace (s : State) : (backToFetch s).outTrace = s.outTrace := rfl
@[simp] theorem backToFetch_draws (s : State) : (backToFetch s).draws = s.draws := rfl

/-! ### placeFetchWord -/

@[simp] theorem placeFetchWord_regs (s : State) (w : Word) : (placeFetchWord s w).regs = s.regs := rfl
@[simp] theorem placeFetchWord_pc (s : State) (w : Word) : (placeFetchWord s w).pc = s.pc := rfl
@[simp] theorem placeFetchWord_flags (s : State) (w : Word) : (placeFetchWord s w).flags = s.flags := rfl
@[simp] theorem placeFetchWord_halted (s : State) (w : Word) : (placeFetchWord s w).halted = s.halted := rfl
@[simp] theorem placeFetchWord_mem (s : State) (w : Word) : (placeFetchWord s w).mem = s.mem.put s.pc.toNat w := rfl
@[simp] theorem placeFetchWord_input (s : State) (w : Word) : (placeFetchWord s w).input = s.input := rfl
@[simp] theorem placeFetchWord_outPending (s : State) (w : Word) : (placeFetchWord s w).outPending = s.outPending := rfl
@[simp] theorem placeFetchWord_out (s : State) (w : Word) : (placeFetchWord s w).out = s.out := rfl
@[simp] theorem placeFetchWord_ir (s : State) (w : Word) : (placeFetchWord s w).ir = s.ir := rfl
@[simp] theorem placeFetchWord_phase (s : State) (w : Word) : (placeFetchWord s w).phase = Phase.fetch := rfl
@[simp] theorem placeFetchWord_bootCount (s : State) (w : Word) : (placeFetchWord s w).bootCount = s.bootCount := rfl
@[simp] theorem placeFetchWord_outTrace (s : State) (w : Word) : (placeFetchWord s w).outTrace = s.outTrace := rfl
@[simp] theorem placeFetchWord_draws (s : State) (w : Word) : (placeFetchWord s w).draws = s.draws := rfl

end Sys2Proof.Machine
end

