-- ==== Sys2Proof/Laws/Ops.lean ====
section
/-!
SUPPORT. One lemma per shared operation, saying once everything it does.
-/

namespace Sys2Proof.Machine

/-! ## Registers -/

theorem get_set (x : Regs) (r r' : Reg) (v : Word) : (x.set r v).get r' = if r' = r then v else x.get r' := by
  cases r <;> cases r' <;> rfl

@[simp] theorem reg_setReg_same (s : State) (r : Reg) (v : Word) : (s.setReg r v).reg r = v := by
  simp [State.reg, State.setReg, get_set]

theorem reg_setReg_other (s : State) {r r' : Reg} (v : Word) (h : r' ≠ r) : (s.setReg r v).reg r' = s.reg r' := by
  simp [State.reg, State.setReg, get_set, h]

/-- Two register files that agree on every register are one. -/
theorem regs_ext {x y : Regs} (h : ∀ r, x.get r = y.get r) : x = y := by
  obtain ⟨a, b, c, d, p, q, bp, sp⟩ := x
  have ha := h .a; have hb := h .b; have hc := h .c; have hd := h .d
  have hp := h .p; have hq := h .q; have hbp := h .bp; have hsp := h .sp
  simp only [Regs.get] at ha hb hc hd hp hq hbp hsp
  subst ha hb hc hd hp hq hbp hsp
  rfl

@[simp] theorem reg_setFlags (s : State) (f : Flags) (r : Reg) : (s.setFlags f).reg r = s.reg r := rfl
@[simp] theorem reg_goto (s : State) (a : Word) (r : Reg) : (s.goto a).reg r = s.reg r := rfl
@[simp] theorem reg_advance (s : State) (r : Reg) : s.advance.reg r = s.reg r := rfl
@[simp] theorem reg_halt (s : State) (r : Reg) : s.halt.reg r = s.reg r := rfl
@[simp] theorem reg_memWrite (s : State) (a v : Word) (r : Reg) : (s.memWrite a v).reg r = s.reg r := rfl
@[simp] theorem reg_drawn (s : State) (r : Reg) : s.drawn.reg r = s.reg r := rfl
@[simp] theorem reg_ioWrite (s : State) (p v : Word) (r : Reg) : (s.ioWrite p v).reg r = s.reg r := rfl
@[simp] theorem reg_writeInput (s : State) (p v : Word) (r : Reg) : (s.writeInput p v).reg r = s.reg r := rfl
@[simp] theorem reg_fetchPulse (s : State) (r : Reg) : (fetchPulse s).reg r = s.reg r := rfl
@[simp] theorem reg_backToFetch (s : State) (r : Reg) : (backToFetch s).reg r = s.reg r := rfl

/-! ## Memory and ports -/

/-- A store writes one word and leaves every other alone. -/
theorem memRead_memWrite (s : State) (a b v : Word) :
    (s.memWrite a v).memRead b = if b = a then v else s.memRead b := by
  unfold State.memRead State.memWrite
  by_cases h : b = a
  · subst h; simp [cell_put_same]
  · have h' : b.toNat ≠ a.toNat := fun e => h (BitVec.eq_of_toNat_eq e)
    simp [cell_put_other _ _ h', h]

@[simp] theorem memRead_setReg (s : State) (r : Reg) (v a : Word) : (s.setReg r v).memRead a = s.memRead a := rfl
@[simp] theorem memRead_setFlags (s : State) (f : Flags) (a : Word) : (s.setFlags f).memRead a = s.memRead a := rfl
@[simp] theorem memRead_goto (s : State) (b a : Word) : (s.goto b).memRead a = s.memRead a := rfl
@[simp] theorem memRead_advance (s : State) (a : Word) : s.advance.memRead a = s.memRead a := rfl
@[simp] theorem memRead_halt (s : State) (a : Word) : s.halt.memRead a = s.memRead a := rfl
@[simp] theorem memRead_drawn (s : State) (a : Word) : s.drawn.memRead a = s.memRead a := rfl
@[simp] theorem memRead_ioWrite (s : State) (p v a : Word) : (s.ioWrite p v).memRead a = s.memRead a := rfl
@[simp] theorem memRead_writeInput (s : State) (p v a : Word) : (s.writeInput p v).memRead a = s.memRead a := rfl
@[simp] theorem memRead_fetchPulse (s : State) (a : Word) : (fetchPulse s).memRead a = s.memRead a := rfl
@[simp] theorem memRead_backToFetch (s : State) (a : Word) : (backToFetch s).memRead a = s.memRead a := rfl

/-- An IO write's committed half: the written port takes the value. -/
@[simp] theorem ioWrite_out (s : State) (p v : Word) : (s.ioWrite p v).out = s.out.put p.toNat v := by
  simp [State.ioWrite, State.commitOutput, cell_put_same]

/-- An IO write is committed to its port and to no other. -/
theorem readOutput_ioWrite (s : State) (p q v : Word) :
    (s.ioWrite p v).readOutput q = if q = p then v else s.readOutput q := by
  unfold State.readOutput
  rw [ioWrite_out]
  by_cases h : q = p
  · subst h; simp [cell_put_same]
  · have h' : q.toNat ≠ p.toNat := fun e => h (BitVec.eq_of_toNat_eq e)
    simp [cell_put_other _ _ h', h]

/-- The host's write to an input side is what the CPU reads there. -/
theorem ioRead_writeInput (s : State) (p q v : Word) :
    (s.writeInput p v).ioRead q = if q = p then v else s.ioRead q := by
  unfold State.ioRead State.writeInput
  by_cases h : q = p
  · subst h; simp [cell_put_same]
  · have h' : q.toNat ≠ p.toNat := fun e => h (BitVec.eq_of_toNat_eq e)
    simp [cell_put_other _ _ h', h]

/-! ## Instructions and pulses -/

/-- What an ALU instruction's shared part does to each piece of state. -/
theorem aluStep_spec (f : Word → Word → AluResult) (dst : AluDest) (ra rb : Reg) (s : State) :
    (aluStep f dst ra rb s).regs = s.regs.set dst.reg (f (s.reg ra) (s.reg rb)).r ∧
    (aluStep f dst ra rb s).flags = aluFlags (f (s.reg ra) (s.reg rb)) ∧
    (aluStep f dst ra rb s).pc = s.pc + 1 ∧ (aluStep f dst ra rb s).halted = false ∧
    (aluStep f dst ra rb s).mem = s.mem := ⟨rfl, rfl, rfl, rfl, rfl⟩

/-- Executing a word that answers a next state ran the instruction it decodes to. -/
theorem executeWord_next {w : Word} {s t : State} (h : executeWord w s = .next t) :
    ∃ i, decode w = .ok i ∧ exec i s = .next t := by
  unfold executeWord at h
  split at h
  · rename_i i hi; exact ⟨i, hi, h⟩
  · cases h

/-- The Execute pulse that answers a next state ran an instruction and went back to Fetch. -/
theorem executePulse_next {s t : State} (h : executePulse s = .next t) :
    ∃ i u, decode s.ir = .ok i ∧ exec i s = .next u ∧ t = backToFetch u := by
  unfold executePulse at h
  cases hw : executeWord s.ir s with
  | next u =>
    obtain ⟨i, hi, hu⟩ := executeWord_next hw
    rw [hw] at h
    exact ⟨i, u, hi, hu, by simpa [endExecute] using h.symm⟩
  | fault f => rw [hw] at h; simp [endExecute] at h
  | refused r => rw [hw] at h; simp [endExecute] at h

/-- A step from the Fetch phase that answers a next state ran the instruction at `pc`. -/
theorem step_next {s t : State} (hp : s.phase = .fetch) (h : step s = .next t) :
    ∃ i u, decode (s.memRead s.pc) = .ok i ∧ exec i (fetchPulse s) = .next u ∧ t = backToFetch u := by
  simp only [step, runInstruction, hp] at h
  obtain ⟨i, u, hi, hu, ht⟩ := executePulse_next h
  rw [fetchPulse_ir] at hi
  exact ⟨i, u, hi, hu, ht⟩

/-- An edge of the bootloader changes only memory, its counter and the program counter. -/
theorem bootEdge_frame (rom : List Word) (s : State) :
    (bootEdge rom s).regs = s.regs ∧ (bootEdge rom s).flags = s.flags ∧ (bootEdge rom s).halted = s.halted ∧
    (bootEdge rom s).input = s.input ∧ (bootEdge rom s).outPending = s.outPending ∧ (bootEdge rom s).out = s.out ∧
    (bootEdge rom s).ir = s.ir ∧ (bootEdge rom s).phase = s.phase ∧ (bootEdge rom s).outTrace = s.outTrace ∧
    (bootEdge rom s).draws = s.draws := by
  unfold bootEdge
  split
  · split <;> exact ⟨rfl, rfl, rfl, rfl, rfl, rfl, rfl, rfl, rfl, rfl⟩
  · exact ⟨rfl, rfl, rfl, rfl, rfl, rfl, rfl, rfl, rfl, rfl⟩

/-- A device's update changes only its own words and the input sides it drives. -/
theorem drive_spec (s : State) (d : Device) (values : List (Word × Word)) :
    ∃ inp, s.drive d values = { s with input := inp } ∧ (s.input.wf → inp.wf) := by
  unfold State.drive
  induction values generalizing s with
  | nil => exact ⟨s.input, rfl, id⟩
  | cons pv rest ih =>
    simp only [List.foldl_cons]
    split
    · obtain ⟨inp, h, hw⟩ := ih (s.writeInput pv.1 pv.2)
      exact ⟨inp, h, fun hs => hw (put_word_wf _ _ hs)⟩
    · exact ih s

/-- The updates of every device change only the devices' words and the input sides. -/
theorem updateDevices_spec (ds : List Device) (s : State) :
    ∃ inp, (updateDevices ds s).2 = { s with input := inp } ∧ (s.input.wf → inp.wf) := by
  induction ds generalizing s with
  | nil => exact ⟨s.input, rfl, id⟩
  | cons d ds ih =>
    obtain ⟨inp, h, hw⟩ := drive_spec s d (d.react d.words (d.outPorts.map s.readOutput)).2
    obtain ⟨inp', h', hw'⟩ := ih (updateDevice d s).2
    refine ⟨inp', ?_, fun hs => hw' ?_⟩
    · simp only [updateDevices]
      rw [h']
      simp [updateDevice, h]
    · simpa [updateDevice, h] using hw hs

/-- At one edge every device observes the same committed outputs, whatever the devices before it drove. -/
theorem updateDevices_devices (ds : List Device) (s : State) :
    (updateDevices ds s).1 =
      ds.map (fun d => { d with words := (d.react d.words (d.outPorts.map s.readOutput)).1 }) := by
  induction ds generalizing s with
  | nil => rfl
  | cons d ds ih =>
    obtain ⟨inp, h, -⟩ := drive_spec s d (d.react d.words (d.outPorts.map s.readOutput)).2
    simp only [updateDevices, List.map_cons, ih, updateDevice, h]
    rfl

/-- With nothing updated at the edge, the open same-edge question makes no difference. -/
theorem executeView_same (s : State) : executeView s s = s := by
  unfold executeView
  split <;> rfl

/-- At an Execute edge at which no device drives an input, the CPU sees the state as it stands. -/
theorem executeEdge_undriven {m : Realisation} {ds ds' : List Device} {s : State}
    (h : updateDevices ds s = (ds', s)) :
    Board.executeEdge ⟨m, ds, s⟩ =
      match m.pulse s with
      | .next t => .next ⟨m, ds', { t with input := s.input }⟩
      | .fault f => .fault f
      | .refused r => .refused r := by
  cases hp : m.pulse s <;> simp only [Board.executeEdge, h, executeView_same, hp]

/-- Any number of update rounds changes only the devices' words and the input sides. -/
theorem updateRounds_spec (k : Nat) (ds : List Device) (s : State) :
    ∃ inp, (updateRounds k ds s).2 = { s with input := inp } ∧ (s.input.wf → inp.wf) := by
  induction k generalizing ds s with
  | zero => exact ⟨s.input, rfl, id⟩
  | succ k ih =>
    obtain ⟨inp, h, hw⟩ := updateDevices_spec ds s
    obtain ⟨inp', h', hw'⟩ := ih (updateDevices ds s).1 (updateDevices ds s).2
    refine ⟨inp', ?_, fun hs => hw' (by rw [h]; exact hw hs)⟩
    simp only [updateRounds]
    rw [h', h]

/-- The interpreter has no line that holds it disabled, and its two pulses are one instruction. -/
@[simp] theorem interpreter_enabled (rom : List Word) (s : State) :
    Realisation.enabled ⟨.interpreter, rom⟩ s = true := rfl

theorem interpreter_runInstruction (rom : List Word) (s : State) :
    Realisation.runInstruction ⟨.interpreter, rom⟩ s = runInstruction s := by
  cases h : s.phase <;> simp [Realisation.runInstruction, Realisation.pulse, runInstruction, h]

end Sys2Proof.Machine
end

