-- ==== Sys2Proof/Laws/PerInstr.lean ====
section
/-!
SUPPORT. Statements made per instruction. EncodingRow: the word an instruction encodes to lies in its own row of
spec/opcode_table.json, the row's match under the row's mask.
-/

namespace Sys2Proof.Laws

/-- The (mask, match) of an instruction's row in spec/opcode_table.json. -/
def opcodeRow : Instr → Word × Word
  | .hlt => (0xE000#16, 0x0000#16)
  | .nop => (0xE000#16, 0x2000#16)
  | .mov _ _ => (0xF000#16, 0x4000#16)
  | .movIp _ => (0xFE00#16, 0x5000#16)
  | .movFlags _ => (0xFE00#16, 0x5200#16)
  | .setl _ _ => (0xF000#16, 0x6000#16)
  | .seth _ _ => (0xF000#16, 0x7000#16)
  | .cmpS _ _ => (0xF000#16, 0x8000#16)
  | .cmpJ _ _ => (0xF000#16, 0x9000#16)
  | .aluZero _ _ _ => (0xE03F#16, 0xA02A#16)
  | .aluOne _ _ _ => (0xE03F#16, 0xA03F#16)
  | .aluNegOne _ _ _ => (0xE03F#16, 0xA03A#16)
  | .aluA _ _ _ => (0xE03F#16, 0xA00C#16)
  | .aluB _ _ _ => (0xE03F#16, 0xA030#16)
  | .aluNotA _ _ _ => (0xE03F#16, 0xA00D#16)
  | .aluNotB _ _ _ => (0xE03F#16, 0xA031#16)
  | .aluNegA _ _ _ => (0xE03F#16, 0xA00F#16)
  | .aluNegB _ _ _ => (0xE03F#16, 0xA033#16)
  | .aluAPlus1 _ _ _ => (0xE03F#16, 0xA01F#16)
  | .aluBPlus1 _ _ _ => (0xE03F#16, 0xA037#16)
  | .aluAMinus1 _ _ _ => (0xE03F#16, 0xA00E#16)
  | .aluBMinus1 _ _ _ => (0xE03F#16, 0xA032#16)
  | .aluAPlusB _ _ _ => (0xE03F#16, 0xA002#16)
  | .aluAMinusB _ _ _ => (0xE03F#16, 0xA013#16)
  | .aluBMinusA _ _ _ => (0xE03F#16, 0xA007#16)
  | .aluAnd _ _ _ => (0xE03F#16, 0xA000#16)
  | .aluOr _ _ _ => (0xE03F#16, 0xA015#16)
  | .aluShl _ _ _ => (0xE03F#16, 0xA001#16)
  | .aluShr _ _ _ => (0xE03F#16, 0xA004#16)
  | .aluXor _ _ _ => (0xE03F#16, 0xA005#16)
  | .ld _ _ => (0xF000#16, 0xC000#16)
  | .st _ _ => (0xF000#16, 0xD000#16)
  | .ioIn _ _ => (0xF000#16, 0xE000#16)
  | .ioOut _ _ => (0xF000#16, 0xF000#16)

/-! ## Bits of packed words -/

theorem packWord_masked (op : BitVec 3) (fl : Bool) (ra rb : BitVec 3) (low : BitVec 6) (m : Word) :
    packWord op fl ra rb low &&& m =
      packWord (op &&& m.extractLsb' 13 3) (fl && m.getLsbD 12) (ra &&& m.extractLsb' 9 3) (rb &&& m.extractLsb' 6 3)
        (low &&& m.extractLsb' 0 6) := by
  apply BitVec.eq_of_getLsbD_eq
  intro i hi
  rw [BitVec.getLsbD_and]
  unfold packWord
  simp only [BitVec.getLsbD_append, BitVec.getLsbD_and, BitVec.getLsbD_extractLsb', BitVec.getLsbD_ofBool]
  interval_cases i <;> simp

theorem packSet_masked (fl : Bool) (ra : BitVec 3) (imm : BitVec 8) :
    packSet fl ra imm &&& 0xF000#16 = packSet fl 0#3 0#8 := by
  apply BitVec.eq_of_getLsbD_eq
  intro i hi
  rw [BitVec.getLsbD_and]
  unfold packSet
  simp only [BitVec.getLsbD_append, BitVec.getLsbD_ofBool]
  interval_cases i <;> simp

namespace EncodingRow

/-- The canonical word matches the instruction's row of the opcode table. -/
def Statement (i : Instr) : Prop := encode i &&& (opcodeRow i).1 = (opcodeRow i).2

theorem hlt : Statement (.hlt) := by
  simp only [Statement, encode, opcodeRow, packWord_masked]; simp; rfl

theorem nop : Statement (.nop) := by
  simp only [Statement, encode, opcodeRow, packWord_masked]; simp; rfl

theorem mov (rd rs : Reg) : Statement (.mov rd rs) := by
  simp only [Statement, encode, opcodeRow, packWord_masked]; simp; rfl

theorem movIp (rd : Reg) : Statement (.movIp rd) := by
  simp only [Statement, encode, opcodeRow, packWord_masked]; simp; rfl

theorem movFlags (rd : Reg) : Statement (.movFlags rd) := by
  simp only [Statement, encode, opcodeRow, packWord_masked]; simp; rfl

theorem setl (rd : Reg) (imm : BitVec 8) : Statement (.setl rd imm) := by
  simp only [Statement, encode, opcodeRow, packSet_masked]; rfl

theorem seth (rd : Reg) (imm : BitVec 8) : Statement (.seth rd imm) := by
  simp only [Statement, encode, opcodeRow, packSet_masked]; rfl

theorem cmpS (cond : Cond) (rd : Reg) : Statement (.cmpS cond rd) := by
  simp only [Statement, encode, opcodeRow, packWord_masked]; simp; rfl

theorem cmpJ (cond : Cond) (rt : Reg) : Statement (.cmpJ cond rt) := by
  simp only [Statement, encode, opcodeRow, packWord_masked]; simp; rfl

theorem aluZero (dst : AluDest) (ra rb : Reg) : Statement (.aluZero dst ra rb) := by
  simp only [Statement, encode, opcodeRow, packAlu, packWord_masked]; simp; rfl

theorem aluOne (dst : AluDest) (ra rb : Reg) : Statement (.aluOne dst ra rb) := by
  simp only [Statement, encode, opcodeRow, packAlu, packWord_masked]; simp; rfl

theorem aluNegOne (dst : AluDest) (ra rb : Reg) : Statement (.aluNegOne dst ra rb) := by
  simp only [Statement, encode, opcodeRow, packAlu, packWord_masked]; simp; rfl

theorem aluA (dst : AluDest) (ra rb : Reg) : Statement (.aluA dst ra rb) := by
  simp only [Statement, encode, opcodeRow, packAlu, packWord_masked]; simp; rfl

theorem aluB (dst : AluDest) (ra rb : Reg) : Statement (.aluB dst ra rb) := by
  simp only [Statement, encode, opcodeRow, packAlu, packWord_masked]; simp; rfl

theorem aluNotA (dst : AluDest) (ra rb : Reg) : Statement (.aluNotA dst ra rb) := by
  simp only [Statement, encode, opcodeRow, packAlu, packWord_masked]; simp; rfl

theorem aluNotB (dst : AluDest) (ra rb : Reg) : Statement (.aluNotB dst ra rb) := by
  simp only [Statement, encode, opcodeRow, packAlu, packWord_masked]; simp; rfl

theorem aluNegA (dst : AluDest) (ra rb : Reg) : Statement (.aluNegA dst ra rb) := by
  simp only [Statement, encode, opcodeRow, packAlu, packWord_masked]; simp; rfl

theorem aluNegB (dst : AluDest) (ra rb : Reg) : Statement (.aluNegB dst ra rb) := by
  simp only [Statement, encode, opcodeRow, packAlu, packWord_masked]; simp; rfl

theorem aluAPlus1 (dst : AluDest) (ra rb : Reg) : Statement (.aluAPlus1 dst ra rb) := by
  simp only [Statement, encode, opcodeRow, packAlu, packWord_masked]; simp; rfl

theorem aluBPlus1 (dst : AluDest) (ra rb : Reg) : Statement (.aluBPlus1 dst ra rb) := by
  simp only [Statement, encode, opcodeRow, packAlu, packWord_masked]; simp; rfl

theorem aluAMinus1 (dst : AluDest) (ra rb : Reg) : Statement (.aluAMinus1 dst ra rb) := by
  simp only [Statement, encode, opcodeRow, packAlu, packWord_masked]; simp; rfl

theorem aluBMinus1 (dst : AluDest) (ra rb : Reg) : Statement (.aluBMinus1 dst ra rb) := by
  simp only [Statement, encode, opcodeRow, packAlu, packWord_masked]; simp; rfl

theorem aluAPlusB (dst : AluDest) (ra rb : Reg) : Statement (.aluAPlusB dst ra rb) := by
  simp only [Statement, encode, opcodeRow, packAlu, packWord_masked]; simp; rfl

theorem aluAMinusB (dst : AluDest) (ra rb : Reg) : Statement (.aluAMinusB dst ra rb) := by
  simp only [Statement, encode, opcodeRow, packAlu, packWord_masked]; simp; rfl

theorem aluBMinusA (dst : AluDest) (ra rb : Reg) : Statement (.aluBMinusA dst ra rb) := by
  simp only [Statement, encode, opcodeRow, packAlu, packWord_masked]; simp; rfl

theorem aluAnd (dst : AluDest) (ra rb : Reg) : Statement (.aluAnd dst ra rb) := by
  simp only [Statement, encode, opcodeRow, packAlu, packWord_masked]; simp; rfl

theorem aluOr (dst : AluDest) (ra rb : Reg) : Statement (.aluOr dst ra rb) := by
  simp only [Statement, encode, opcodeRow, packAlu, packWord_masked]; simp; rfl

theorem aluShl (dst : AluDest) (ra rb : Reg) : Statement (.aluShl dst ra rb) := by
  simp only [Statement, encode, opcodeRow, packAlu, packWord_masked]; simp; rfl

theorem aluShr (dst : AluDest) (ra rb : Reg) : Statement (.aluShr dst ra rb) := by
  simp only [Statement, encode, opcodeRow, packAlu, packWord_masked]; simp; rfl

theorem aluXor (dst : AluDest) (ra rb : Reg) : Statement (.aluXor dst ra rb) := by
  simp only [Statement, encode, opcodeRow, packAlu, packWord_masked]; simp; rfl

theorem ld (rd rx : Reg) : Statement (.ld rd rx) := by
  simp only [Statement, encode, opcodeRow, packMemIo, Switch.memAddrField, packWord_masked]; simp; rfl

theorem st (rx rs : Reg) : Statement (.st rx rs) := by
  simp only [Statement, encode, opcodeRow, packMemIo, Switch.memAddrField, packWord_masked]; simp; rfl

theorem ioIn (rd rx : Reg) : Statement (.ioIn rd rx) := by
  simp only [Statement, encode, opcodeRow, packMemIo, Switch.memAddrField, packWord_masked]; simp; rfl

theorem ioOut (rx rs : Reg) : Statement (.ioOut rx rs) := by
  simp only [Statement, encode, opcodeRow, packMemIo, Switch.memAddrField, packWord_masked]; simp; rfl

end EncodingRow

end Sys2Proof.Laws
end

