-- ==== Sys2Proof/Tests/Slice0.lean ====
section
/-!
SUPPORT. The model's own tests: ill-formed terms that WellFormed refuses, words written out from the spec's encodings, one
step at a time on the vectors of spec/95_test_vectors.md, and for every statement with hypotheses a state that meets them.
-/

namespace Sys2Proof.Tests

open Sys2Proof.Machine

/-! ## Helpers -/

/-- The next state of an outcome, if it has one. -/
def nextOf (o : Host.Outcome State Fault Refusal) : Option State :=
  match o with
  | .next s => some s
  | .fault _ | .refused _ => none

/-- The fault of an outcome, if it has one. -/
def faultOf (o : Host.Outcome State Fault Refusal) : Option Fault :=
  match o with
  | .fault f => some f
  | .next _ | .refused _ => none

/-- The state after reset with `A` to `D` and the program counter set. -/
def small (a b c d pc : Word) : State := { State.reset with regs := ⟨a, b, c, d, 0, 0, 0, 0⟩, pc := pc }

/-- The interpreter and the gate backend with the empty ROM. -/
def interpreter : Realisation := ⟨.interpreter, []⟩
def gates : Realisation := ⟨.gates, []⟩

/-- One step from a state with a word placed at its program counter. -/
def stepWord (w : Nat) (s : State) : Option State := nextOf (step (s.withFetchWord 16 w))

/-- One ALU word on `A` and `B`: what it leaves in `P` and the flags. -/
def aluRun (w a b : Word) : Option (Word × Flags) :=
  (stepWord w.toNat (small a b 0 0 0)).map (fun t => (t.reg .p, t.flags))

/-! ## WellFormed refuses ill-formed terms -/

/-- A table without XOR. -/
def tableWithoutXor : AluTable := Switch.aluTable.filter (fun row => row.op != .xor)

/-- A table in which AND's row comes after another operation with its code. -/
def tableWithCodeTaken : AluTable := ⟨0#6, .shl⟩ :: Switch.aluTable

theorem test_wellformed_refuses_missing_row : Instr.wellFormedWith tableWithoutXor (.aluXor .p .a .b) = false := by decide
theorem test_wellformed_refuses_taken_code : Instr.wellFormedWith tableWithCodeTaken (.aluAnd .p .a .b) = false := by decide
theorem test_wellformed_accepts_default_table : Instr.wellFormed (.aluXor .q .sp .a) = true := by decide
theorem test_rom_too_long_refused : romWellFormed (List.replicate 65536 0#16) = false := by
  unfold romWellFormed; rw [List.length_replicate]; decide
theorem test_rom_longest_accepted : romWellFormed (List.replicate 65535 0#16) = true := by
  unfold romWellFormed; rw [List.length_replicate]; decide
theorem test_ports_meeting_refused : portsDisjoint [1#16, 2#16] [2#16, 3#16] = false := by decide
theorem test_ports_apart_accepted : portsDisjoint [1#16, 2#16] [3#16, 4#16] = true := by decide

/-! ## Decoding: words written out field by field (30_encoding.md R91 to R105; 43_alu.md R183) -/

theorem test_decode_hlt_nop :
    decode (0b000#3 ++ 0b0000000000000#13) = .ok .hlt ∧ decode (0b001#3 ++ 0b0000000000000#13) = .ok .nop ∧
    decode 0x1FFF#16 = .ok .hlt ∧ decode 0x3FFF#16 = .ok .nop := by decide
theorem test_decode_mov :
    decode (0b010#3 ++ 0b0000#4 ++ 0b001#3 ++ 0b000000#6) = .ok (.mov .b .a) ∧
    decode (0b010#3 ++ 0b0111#4 ++ 0b111#3 ++ 0b111111#6) = .ok (.mov .sp .sp) ∧
    decode (0b010#3 ++ 0b1000#4 ++ 0b111#3 ++ 0b000000#6) = .ok (.movIp .sp) ∧
    decode (0b010#3 ++ 0b1001#4 ++ 0b110#3 ++ 0b000000#6) = .ok (.movFlags .bp) := by decide
theorem test_decode_set :
    decode (0b011#3 ++ 0b0#1 ++ 0b011#3 ++ 0b0#1 ++ 0x08#8) = .ok (.setl .d 0x08#8) ∧
    decode (0b011#3 ++ 0b1#1 ++ 0b111#3 ++ 0b0#1 ++ 0xFF#8) = .ok (.seth .sp 0xFF#8) ∧
    decode 0x6101#16 = .ok (.setl .a 0x01#8) := by decide
theorem test_decode_cmp :
    decode (0b100#3 ++ 0b0#1 ++ 0b010#3 ++ 0b010#3 ++ 0b000000#6) = .ok (.cmpS ⟨false, true, false⟩ .c) ∧
    decode (0b100#3 ++ 0b0#1 ++ 0b100#3 ++ 0b000#3 ++ 0b000000#6) = .ok (.cmpS ⟨true, false, false⟩ .a) ∧
    decode (0b100#3 ++ 0b1#1 ++ 0b011#3 ++ 0b011#3 ++ 0b000000#6) = .ok (.cmpJ ⟨false, true, true⟩ .d) := by decide
theorem test_decode_mem_io :
    decode (0b110#3 ++ 0b0#1 ++ 0b000#3 ++ 0b110#3 ++ 0b000000#6) = .ok (.ld .bp .a) ∧
    decode (0b110#3 ++ 0b1#1 ++ 0b000#3 ++ 0b010#3 ++ 0b000000#6) = .ok (.st .a .c) ∧
    decode (0b111#3 ++ 0b0#1 ++ 0b101#3 ++ 0b001#3 ++ 0b000000#6) = .ok (.ioIn .b .q) ∧
    decode (0b111#3 ++ 0b1#1 ++ 0b010#3 ++ 0b000#3 ++ 0b000000#6) = .ok (.ioOut .c .a) ∧
    decode 0xFFFF#16 = .ok (.ioOut .sp .sp) := by decide
theorem test_decode_alu_first_rows :
    decode (0b101#3 ++ 0b0#1 ++ 0b000#3 ++ 0b001#3 ++ 0b101010#6) = .ok (.aluZero .p .a .b) ∧
    decode (0b101#3 ++ 0b0#1 ++ 0b000#3 ++ 0b001#3 ++ 0b111111#6) = .ok (.aluOne .p .a .b) ∧
    decode (0b101#3 ++ 0b0#1 ++ 0b000#3 ++ 0b001#3 ++ 0b111010#6) = .ok (.aluNegOne .p .a .b) ∧
    decode (0b101#3 ++ 0b0#1 ++ 0b000#3 ++ 0b001#3 ++ 0b001100#6) = .ok (.aluA .p .a .b) ∧
    decode (0b101#3 ++ 0b0#1 ++ 0b000#3 ++ 0b001#3 ++ 0b110000#6) = .ok (.aluB .p .a .b) ∧
    decode (0b101#3 ++ 0b0#1 ++ 0b000#3 ++ 0b001#3 ++ 0b001101#6) = .ok (.aluNotA .p .a .b) ∧
    decode (0b101#3 ++ 0b0#1 ++ 0b000#3 ++ 0b001#3 ++ 0b110001#6) = .ok (.aluNotB .p .a .b) ∧
    decode (0b101#3 ++ 0b0#1 ++ 0b000#3 ++ 0b001#3 ++ 0b001111#6) = .ok (.aluNegA .p .a .b) ∧
    decode (0b101#3 ++ 0b0#1 ++ 0b000#3 ++ 0b001#3 ++ 0b110011#6) = .ok (.aluNegB .p .a .b) ∧
    decode (0b101#3 ++ 0b0#1 ++ 0b000#3 ++ 0b001#3 ++ 0b011111#6) = .ok (.aluAPlus1 .p .a .b) ∧
    decode (0b101#3 ++ 0b0#1 ++ 0b000#3 ++ 0b001#3 ++ 0b110111#6) = .ok (.aluBPlus1 .p .a .b) := by decide
theorem test_decode_alu_last_rows :
    decode (0b101#3 ++ 0b0#1 ++ 0b000#3 ++ 0b001#3 ++ 0b001110#6) = .ok (.aluAMinus1 .p .a .b) ∧
    decode (0b101#3 ++ 0b0#1 ++ 0b000#3 ++ 0b001#3 ++ 0b110010#6) = .ok (.aluBMinus1 .p .a .b) ∧
    decode (0b101#3 ++ 0b0#1 ++ 0b000#3 ++ 0b001#3 ++ 0b000010#6) = .ok (.aluAPlusB .p .a .b) ∧
    decode (0b101#3 ++ 0b0#1 ++ 0b000#3 ++ 0b001#3 ++ 0b010011#6) = .ok (.aluAMinusB .p .a .b) ∧
    decode (0b101#3 ++ 0b0#1 ++ 0b000#3 ++ 0b001#3 ++ 0b000111#6) = .ok (.aluBMinusA .p .a .b) ∧
    decode (0b101#3 ++ 0b0#1 ++ 0b000#3 ++ 0b001#3 ++ 0b000000#6) = .ok (.aluAnd .p .a .b) ∧
    decode (0b101#3 ++ 0b0#1 ++ 0b000#3 ++ 0b001#3 ++ 0b010101#6) = .ok (.aluOr .p .a .b) ∧
    decode (0b101#3 ++ 0b0#1 ++ 0b000#3 ++ 0b001#3 ++ 0b000001#6) = .ok (.aluShl .p .a .b) ∧
    decode (0b101#3 ++ 0b0#1 ++ 0b000#3 ++ 0b001#3 ++ 0b000100#6) = .ok (.aluShr .p .a .b) ∧
    decode (0b101#3 ++ 0b0#1 ++ 0b000#3 ++ 0b001#3 ++ 0b000101#6) = .ok (.aluXor .p .a .b) := by decide
theorem test_decode_alu_to_q :
    decode 0xB4C5#16 = .ok (.aluXor .q .c .d) ∧ decode 0xB90C#16 = .ok (.aluA .q .p .p) ∧
    decode 0xAFFF#16 = .ok (.aluOne .p .sp .sp) := by decide
theorem test_decode_reserved :
    decode 0x5400#16 = .error (.reservedMovSource 10#4) ∧ decode 0x5FC0#16 = .error (.reservedMovSource 15#4) ∧
    decode 0xA003#16 = .error (.reservedAluCode 3#6) ∧ decode 0xBFFE#16 = .error (.reservedAluCode 62#6) := by decide
/-- The canonical words of 95_test_vectors.md section 2.1 and two of its aliases. -/
theorem test_encode_canonical :
    encode (.mov .a .p) = 0x4800#16 ∧ encode (.cmpJ ⟨true, false, true⟩ .d) = 0x9AC0#16 ∧
    encode (.aluAMinusB .p .a .b) = 0xA053#16 ∧ encode (.setl .a 0x01#8) = 0x6001#16 ∧
    encode (.ioOut .c .a) = 0xF400#16 ∧ encode (.seth .sp 0xFF#8) = 0x7EFF#16 := by decide

/-! ## One step of each instruction (95_test_vectors.md sections 2.2 to 2.5) -/

theorem test_hlt_wraps :
    (stepWord 0x0000 (small 0 0 0 0 0xFFFF)).map (fun t => (t.pc, t.halted)) = some (0x0000#16, true) := by decide
theorem test_nop_clears_halted :
    (stepWord 0x2000 { small 0 0 0 0 5 with halted := true }).map (fun t => (t.pc, t.halted)) =
      some (0x0006#16, false) := by decide
theorem test_mov_copies :
    (stepWord 0x4040 (small 0x1234 0xFFFF 0 0 0)).map (fun t => (t.reg .a, t.reg .b)) =
      some (0x1234#16, 0x1234#16) := by decide
theorem test_mov_ip_is_own_address :
    (stepWord 0x50C0 (small 0 0 0 0 0xFFFF)).map (fun t => (t.reg .d, t.pc)) = some (0xFFFF#16, 0x0000#16) := by decide
theorem test_mov_flags_layout :
    (stepWord 0x5380 { small 0 0 0 0 0 with flags := ⟨false, true, true⟩ }).map (fun t => t.reg .bp) =
      some 0x0003#16 ∧
    (stepWord 0x5380 { small 0 0 0 0 0 with flags := ⟨true, false, false⟩ }).map (fun t => t.reg .bp) =
      some 0x0004#16 := by decide
theorem test_setl_keeps_high_byte :
    (stepWord 0x6034 (small 0xABCD 0 0 0 0)).map (fun t => t.reg .a) = some 0xAB34#16 := by decide
theorem test_seth_keeps_low_byte :
    (stepWord 0x7012 (small 0xABCD 0 0 0 0)).map (fun t => t.reg .a) = some 0x12CD#16 := by decide
theorem test_cmp_s_less_after_overflow :
    (stepWord 0x8480 { small 0 0 0 0 0 with flags := ⟨false, false, true⟩ }).map (fun t => t.reg .c) =
      some 0x0001#16 := by decide
theorem test_cmp_s_writes_zero :
    (stepWord 0x82C0 { small 0 0 0 7 0 with flags := ⟨false, false, true⟩ }).map (fun t => t.reg .d) =
      some 0x0000#16 := by decide
theorem test_cmp_j_taken :
    (stepWord 0x9AC0 (small 0 0 0 8 0x000D)).map (fun t => t.pc) = some 0x0008#16 := by decide
theorem test_cmp_j_not_taken :
    (stepWord 0x9AC0 { small 0 0 0 8 0x000D with flags := ⟨false, true, false⟩ }).map (fun t => t.pc) =
      some 0x000E#16 := by decide
theorem test_ld_reads_itself :
    (stepWord 0xC040 (small 0x0010 0 0 0 0x0010)).map (fun t => t.reg .b) = some 0xC040#16 := by decide
theorem test_ld_overwrites_its_address :
    (stepWord 0xC000 { small 0x0020 0 0 0 0 with mem := [(0x20, 0x0001#16)] }).map (fun t => t.reg .a) =
      some 0x0001#16 := by decide
theorem test_st_top_address :
    (stepWord 0xD040 (small 0xFFFF 1 0 0 0)).map (fun t => t.mem) =
      some [(0, 0xD040#16), (0xFFFF, 0x0001#16)] := by decide
theorem test_st_to_its_own_address :
    (stepWord 0xD040 (small 4 0 0 0 4)).map (fun t => (t.mem, t.pc)) = some ([(4, 0x0000#16)], 0x0005#16) := by decide
theorem test_in_reads_input_side :
    (stepWord 0xEA40 { small 0 0 0 0 0 with input := [(0, 0xBEEF#16)] }).map (fun t => t.reg .b) =
      some 0xBEEF#16 := by decide
theorem test_out_writes_output_side_only :
    (stepWord 0xF400 (small 1 0 0 0 0)).map (fun t => (t.out, t.input, t.outTrace)) =
      some ([(0, 0x0001#16)], [], [(0x0000#16, 0x0001#16)]) := by decide

/-! ### The ALU's operations (95_test_vectors.md section 2.4) -/

theorem test_alu_a_plus_b :
    aluRun 0xA042#16 0x7FFF#16 0x0001#16 = some (0x8000#16, ⟨false, true, true⟩) ∧
    aluRun 0xA042#16 0xFFFF#16 0x0001#16 = some (0x0000#16, ⟨true, false, false⟩) ∧
    aluRun 0xA042#16 0x8000#16 0x8000#16 = some (0x0000#16, ⟨true, false, true⟩) := by decide
theorem test_alu_a_minus_b :
    aluRun 0xA053#16 0x8000#16 0x0001#16 = some (0x7FFF#16, ⟨false, false, true⟩) ∧
    aluRun 0xA053#16 0x0003#16 0x0005#16 = some (0xFFFE#16, ⟨false, true, false⟩) ∧
    aluRun 0xA053#16 0x7FFF#16 0xFFFF#16 = some (0x8000#16, ⟨false, true, true⟩) := by decide
theorem test_alu_b_minus_a :
    aluRun 0xA047#16 0x0003#16 0x0005#16 = some (0x0002#16, ⟨false, false, false⟩) ∧
    aluRun 0xA047#16 0x0001#16 0x8000#16 = some (0x7FFF#16, ⟨false, false, true⟩) := by decide
theorem test_alu_neg_a :
    aluRun 0xA04F#16 0x8000#16 0x1111#16 = some (0x8000#16, ⟨false, true, true⟩) ∧
    aluRun 0xA04F#16 0x0001#16 0x1111#16 = some (0xFFFF#16, ⟨false, true, false⟩) := by decide
theorem test_alu_neg_b :
    aluRun 0xA073#16 0x1111#16 0x8000#16 = some (0x8000#16, ⟨false, true, true⟩) ∧
    aluRun 0xA073#16 0x1111#16 0xFFFF#16 = some (0x0001#16, ⟨false, false, false⟩) := by decide
theorem test_alu_a_plus_1 :
    aluRun 0xA05F#16 0x7FFF#16 0x1111#16 = some (0x8000#16, ⟨false, true, true⟩) ∧
    aluRun 0xA05F#16 0xFFFF#16 0x1111#16 = some (0x0000#16, ⟨true, false, false⟩) := by decide
theorem test_alu_b_plus_1 :
    aluRun 0xA077#16 0x1111#16 0x7FFF#16 = some (0x8000#16, ⟨false, true, true⟩) ∧
    aluRun 0xA077#16 0x1111#16 0x00FF#16 = some (0x0100#16, ⟨false, false, false⟩) := by decide
theorem test_alu_a_minus_1 :
    aluRun 0xA04E#16 0x8000#16 0x1111#16 = some (0x7FFF#16, ⟨false, false, true⟩) ∧
    aluRun 0xA04E#16 0x0001#16 0x1111#16 = some (0x0000#16, ⟨true, false, false⟩) := by decide
theorem test_alu_b_minus_1 :
    aluRun 0xA072#16 0x1111#16 0x8000#16 = some (0x7FFF#16, ⟨false, false, true⟩) ∧
    aluRun 0xA072#16 0x1111#16 0x0100#16 = some (0x00FF#16, ⟨false, false, false⟩) := by decide
theorem test_alu_zero :
    aluRun 0xA06A#16 0x1234#16 0xABCD#16 = some (0x0000#16, ⟨true, false, false⟩) := by decide
theorem test_alu_one :
    aluRun 0xA07F#16 0x1234#16 0xABCD#16 = some (0x0001#16, ⟨false, false, false⟩) := by decide
theorem test_alu_neg_one :
    aluRun 0xA07A#16 0x1234#16 0xABCD#16 = some (0xFFFF#16, ⟨false, true, false⟩) := by decide
theorem test_alu_a :
    aluRun 0xA04C#16 0x8001#16 0x1111#16 = some (0x8001#16, ⟨false, true, false⟩) ∧
    aluRun 0xA04C#16 0x0000#16 0xFFFF#16 = some (0x0000#16, ⟨true, false, false⟩) := by decide
theorem test_alu_b :
    aluRun 0xA070#16 0x1111#16 0x0000#16 = some (0x0000#16, ⟨true, false, false⟩) ∧
    aluRun 0xA070#16 0x0000#16 0x7FFF#16 = some (0x7FFF#16, ⟨false, false, false⟩) := by decide
theorem test_alu_not_a :
    aluRun 0xA04D#16 0xFFFF#16 0x1111#16 = some (0x0000#16, ⟨true, false, false⟩) ∧
    aluRun 0xA04D#16 0x00FF#16 0x1111#16 = some (0xFF00#16, ⟨false, true, false⟩) := by decide
theorem test_alu_not_b :
    aluRun 0xA071#16 0x1111#16 0x0F0F#16 = some (0xF0F0#16, ⟨false, true, false⟩) := by decide
theorem test_alu_and :
    aluRun 0xA040#16 0xF0F0#16 0xFF00#16 = some (0xF000#16, ⟨false, true, false⟩) ∧
    aluRun 0xA040#16 0xAAAA#16 0x5555#16 = some (0x0000#16, ⟨true, false, false⟩) := by decide
theorem test_alu_or :
    aluRun 0xA055#16 0xF0F0#16 0x0F0F#16 = some (0xFFFF#16, ⟨false, true, false⟩) ∧
    aluRun 0xA055#16 0x0000#16 0x0000#16 = some (0x0000#16, ⟨true, false, false⟩) := by decide
theorem test_alu_xor :
    aluRun 0xA045#16 0xFFFF#16 0xFFFF#16 = some (0x0000#16, ⟨true, false, false⟩) ∧
    aluRun 0xA045#16 0xF0F0#16 0xFF00#16 = some (0x0FF0#16, ⟨false, false, false⟩) := by decide
theorem test_alu_shl :
    aluRun 0xA041#16 0x8001#16 0x1111#16 = some (0x0002#16, ⟨false, false, false⟩) ∧
    aluRun 0xA041#16 0x4000#16 0x1111#16 = some (0x8000#16, ⟨false, true, false⟩) := by decide
theorem test_alu_shr :
    aluRun 0xA044#16 0x8001#16 0x1111#16 = some (0x4000#16, ⟨false, false, false⟩) ∧
    aluRun 0xA044#16 0xFFFF#16 0x1111#16 = some (0x7FFF#16, ⟨false, false, false⟩) := by decide
/-- The result register may be an operand (same section). -/
theorem test_alu_destination_as_operand :
    (stepWord 0xB942 { State.reset with regs := ⟨0, 0, 0, 0, 3, 4, 0, 0⟩ }).map (fun t => (t.reg .p, t.reg .q)) =
      some (0x0003#16, 0x0007#16) := by decide

/-! ## Reset, bootloader, injection and the gate CPU (sections 1 and 2.6) -/

theorem test_bootload_three_words :
    (bootLoad [0x6001#16, 0x7000#16, 0x0000#16] (small 9 9 9 9 9)).mem =
      [(0, 0x6001#16), (1, 0x7000#16), (2, 0x0000#16)] ∧
    (bootLoad [0x6001#16, 0x7000#16, 0x0000#16] (small 9 9 9 9 9)).pc = 0x0000#16 ∧
    (bootLoad [0x6001#16, 0x7000#16, 0x0000#16] (small 9 9 9 9 9)).bootCount = 0x0003#16 := by decide
/-- `runInstructions([SETL Q,0x22; SETH Q,0x00; MOV A,Q; MOV B,IP])` at `pc = 3`, `Q = 0x1111`. -/
theorem test_injection_restores :
    (nextOf (injectInstructions interpreter [.setl .q 0x22#8, .seth .q 0x00#8, .mov .a .q, .movIp .b] false
      { State.reset with pc := 3, regs := ⟨0, 0, 0, 0, 0, 0x1111, 0, 0⟩ })).map
        (fun t => (t.reg .a, t.reg .b, t.pc, t.reg .q)) =
      some (0x0022#16, 0x0006#16, 0x0003#16, 0x1111#16) := by decide
/-- The same on the gate backend, each instruction's word in mode `11`. -/
theorem test_gate_injection :
    (nextOf (injectAll gates [.setl .q 0x22#8, .mov .a .q, .movIp .b] (small 0 0 0 0 3))).map
        (fun t => (t.reg .a, t.reg .b, t.pc)) = some (0x0022#16, 0x0005#16, 0x0006#16) := by decide +kernel
theorem test_injected_jump_is_undone :
    (nextOf (injectInstructions interpreter [.setl .d 0x40#8, .seth .d 0x00#8, .cmpJ ⟨true, true, true⟩ .d] false
      (small 0 0 0 0 3))).map (fun t => (t.reg .d, t.pc)) = some (0x0040#16, 0x0003#16) := by decide
/-- The worked overflow example of section 2.4, on the gate ALU. -/
theorem test_gate_alu_overflow :
    (gateAlu (aluLines 0b010011#6) (busOf 0x8000#16) (busOf 0x0001#16)).overflow = true ∧
    wordOfBus (gateAlu (aluLines 0b010011#6) (busOf 0x8000#16) (busOf 0x0001#16)).out = 0x7FFF#16 := by decide +kernel
theorem test_gate_pulses_jump :
    (nextOf (machinePulses [] 2 ((small 0 0 0 8 0x000D).withFetchWord 16 0x9AC0))).map (fun t => (t.pc, t.ir)) =
      some (0x0008#16, 0x9AC0#16) := by decide
/-- The bootloader example of section 1 (S8), edge by edge through the gate machine's pulses. -/
theorem test_gate_bootload :
    (nextOf (machinePulses [0x6001#16, 0x7000#16, 0x0000#16] 3 (resetPulse (small 9 9 9 9 9)))).map
        (fun t => (t.mem, t.pc, t.bootCount)) =
      some ([(0, 0x6001#16), (1, 0x7000#16), (2, 0x0000#16)], 0x0000#16, 0x0003#16) := by decide +kernel
/-- The carries around bit 15 in `0x7FFF + 1` and in `0xFFFF + 1`: they differ in the first alone. -/
theorem test_word_adder_carries :
    (wordAdder (busOf 0x7FFF#16) (busOf 1#16)).carryIntoTop = true ∧
    (wordAdder (busOf 0x7FFF#16) (busOf 1#16)).carryOut = false ∧
    (wordAdder (busOf 0xFFFF#16) (busOf 1#16)).carryIntoTop = true ∧
    (wordAdder (busOf 0xFFFF#16) (busOf 1#16)).carryOut = true := by decide +kernel
/-- Program P5 of section 3, second step. -/
theorem test_reserved_word_faults :
    faultOf (step ((small 1 0 0 0 1).withFetchWord 16 0x5400)) = some (.decodeFault 0x5400#16 0x0001#16) := by decide

/-! ## For every statement with hypotheses, a state that meets them -/

/-- `OUT (C), A` just executed on port 0. -/
def afterOut : State :=
  { small 1 0 0 0 1 with out := [(0, 1)], outPending := [(0, 1)], outTrace := [(0, 1)] }

/-- A machine with a word at its program counter. -/
def withWord (w : Nat) : State := (small 1 2 3 4 5).withFetchWord 16 w

/-- A device on input port 1 and output port 0 that shows what it sees. -/
def echo : Device := ⟨[1], [0], [], fun _ seen => (seen, seen.map (fun v => (1, v)))⟩

/-- A NAND whose sinks are both bound to an input, read by one clocked cell. -/
def inverter : Netlist := ⟨[.input 0, .nand 0 1], [(0, 0), (1, 0), (2, 1)], [2]⟩

/-- A Computer of either realisation, ready, with a word at its program counter. -/
def computerAt (backend : Backend) (w : Nat) : Computer := ⟨backend, [], .ready, [], withWord w⟩

theorem witness_DecodeInvertsEncode :
    (Instr.aluXor .q .sp .bp).wellFormed = true ∧ decode 0x407F#16 = .ok (.mov .b .a) ∧
    decode 0x4040#16 = .ok (.mov .b .a) := by decide

/-- Each clause at the least and the greatest word of its range. -/
theorem witness_DecodeFollowsFieldProcedure_clauses :
    (0x1FFF / 8192 = 0 ∧ decode 0x0000#16 = .ok .hlt ∧ decode 0x1FFF#16 = .ok .hlt) ∧
    (0x3FFF / 8192 = 1 ∧ decode 0x2000#16 = .ok .nop ∧ decode 0x3FFF#16 = .ok .nop) ∧
    (0x4FFF / 8192 = 2 ∧ 0x4FFF / 512 % 16 ≤ 7 ∧ decode 0x4000#16 = .ok (.mov .a .a) ∧
      decode 0x4FFF#16 = .ok (.mov .sp .sp)) ∧
    (0x51FF / 512 % 16 = 8 ∧ decode 0x5000#16 = .ok (.movIp .a) ∧ decode 0x51FF#16 = .ok (.movIp .sp)) ∧
    (0x53FF / 512 % 16 = 9 ∧ decode 0x5200#16 = .ok (.movFlags .a) ∧ decode 0x53FF#16 = .ok (.movFlags .sp)) ∧
    (0x6FFF / 8192 = 3 ∧ 0x6FFF / 4096 % 2 = 0 ∧ decode 0x6000#16 = .ok (.setl .a 0#8) ∧
      decode 0x6FFF#16 = .ok (.setl .sp 255#8)) ∧
    (0x7FFF / 4096 % 2 = 1 ∧ decode 0x7000#16 = .ok (.seth .a 0#8) ∧ decode 0x7FFF#16 = .ok (.seth .sp 255#8)) := by
  decide

/-- The other clauses, in the same way, the reserved words last. -/
theorem witness_DecodeFollowsFieldProcedure_more :
    (0x8FFF / 8192 = 4 ∧ 0x8FFF / 4096 % 2 = 0 ∧ decode 0x8000#16 = .ok (.cmpS ⟨false, false, false⟩ .a) ∧
      decode 0x8FFF#16 = .ok (.cmpS ⟨true, true, true⟩ .sp)) ∧
    (0x9FFF / 4096 % 2 = 1 ∧ decode 0x9000#16 = .ok (.cmpJ ⟨false, false, false⟩ .a) ∧
      decode 0x9FFF#16 = .ok (.cmpJ ⟨true, true, true⟩ .sp)) ∧
    (0xBFFF / 8192 = 5 ∧ 0xBFFF % 64 = 63 ∧ decode 0xA000#16 = .ok (.aluAnd .p .a .a) ∧
      decode 0xBFFF#16 = .ok (.aluOne .q .sp .sp)) ∧
    (0xCFFF / 8192 = 6 ∧ decode 0xC000#16 = .ok (.ld .a .a) ∧ decode 0xCFFF#16 = .ok (.ld .sp .sp)) ∧
    (decode 0xD000#16 = .ok (.st .a .a) ∧ decode 0xDFFF#16 = .ok (.st .sp .sp)) ∧
    (0xEFFF / 8192 = 7 ∧ decode 0xE000#16 = .ok (.ioIn .a .a) ∧ decode 0xEFFF#16 = .ok (.ioIn .sp .sp)) ∧
    (decode 0xF000#16 = .ok (.ioOut .a .a) ∧ decode 0xFFFF#16 = .ok (.ioOut .sp .sp)) ∧
    (decode 0x5FFF#16 = .error (.reservedMovSource 15#4) ∧ decode 0xBFFE#16 = .error (.reservedAluCode 62#6)) := by
  decide

theorem witness_UnusedBitsAreIgnored : decode 0x3ABC#16 = .ok .nop := by decide

theorem witness_ReservedWordsFault_reserved :
    (withWord 0x5400).phase = .fetch ∧ ReservedNumber ((withWord 0x5400).memRead (withWord 0x5400).pc).toNat :=
  ⟨rfl, Or.inl (by decide)⟩

theorem witness_ReservedWordsFault_other :
    (withWord 0x5200).phase = .fetch ∧ ¬ReservedNumber ((withWord 0x5200).memRead (withWord 0x5200).pc).toNat :=
  ⟨rfl, by unfold ReservedNumber; decide⟩

theorem witness_StepRunsDecodedInstruction :
    (withWord 0xD080).phase = .fetch ∧ decode ((withWord 0xD080).memRead (withWord 0xD080).pc) = .ok (.st .a .c) ∧
    (Instr.st .a .c).wellFormed = true ∧ ∃ t, exec (.st .a .c) (withWord 0xD080) = .next t :=
  ⟨rfl, by decide, by decide, _, rfl⟩

theorem witness_HaltedTellsWhetherLastWasHlt :
    (∃ t, exec .hlt State.reset = .next t ∧ t.halted = true) ∧
    (∃ t, exec .nop State.reset = .next t ∧ t.halted = false) := ⟨⟨_, rfl, rfl⟩, ⟨_, rfl, rfl⟩⟩

/-- The advance at the top of memory, and a jump that is taken. -/
theorem witness_ProgramCounterAdvancesOrJumps :
    (∃ t, exec .nop (small 0 0 0 0 0xFFFF) = .next t ∧ t.pc = 0x0000#16) ∧
    (∃ t, exec (.cmpJ ⟨false, false, true⟩ .d) (small 0 0 0 0xFFFF 9) = .next t ∧ t.pc = 0xFFFF#16) :=
  ⟨⟨_, rfl, by decide⟩, ⟨_, rfl, by decide⟩⟩

theorem witness_NonAdditionResultsCompareAsSigned :
    AluOp.a ∈ [AluOp.a, .b, .notA, .notB, .and, .or, .shl, .shr, .xor] ∧
    AluOp.xor ∈ [AluOp.a, .b, .notA, .notB, .and, .or, .shl, .shr, .xor] := by decide

theorem witness_OnlyAluInstructionsWriteFlags :
    (∀ i ∈ [Instr.hlt, .mov .a .b, .ld .a .b, .ioOut .a .b], i.aluOp = none) ∧
    (∃ t, exec (.mov .a .b) State.reset = .next t) ∧
    (∃ t, injectAll gates [Instr.hlt, .mov .a .b, .ld .a .b, .ioOut .a .b] State.reset = .next t) ∧
    (∀ c r, Instr.nop ≠ .cmpS c r) ∧ (∀ c r, Instr.nop ≠ .cmpJ c r) ∧ (∀ r, Instr.nop ≠ .movFlags r) :=
  ⟨by decide, ⟨_, rfl⟩, ⟨_, rfl⟩, by simp, by simp, by simp⟩

theorem witness_ControlLinesComputeTable :
    Switch.aluTable.codeOf .and = some 0#6 ∧ AluOp.and ∉ [AluOp.shl, .shr, .xor] ∧
    Switch.aluTable.codeOf .one = some 63#6 ∧ AluOp.one ∉ [AluOp.shl, .shr, .xor] := by decide

theorem witness_GateAluMatchesReference :
    Switch.aluTable.codeOf .xor = some 5#6 ∧ Switch.aluTable.codeOf .one = some 63#6 := by decide

/-- A store to the next address, and one to the store's own address. -/
theorem witness_StoredWordIsFetchedNext :
    (∃ s : State, s.phase = .fetch ∧ decode (s.memRead s.pc) = .ok (.st .a .b) ∧ s.reg .a = s.pc + 1) ∧
    (∃ s : State, s.phase = .fetch ∧ decode (s.memRead s.pc) = .ok (.st .a .b) ∧ s.reg .a = s.pc) :=
  ⟨⟨(small 0x0000 7 0 0 0xFFFF).withFetchWord 16 0xD040, rfl, by decide, by decide⟩,
   ⟨(small 0x0004 7 0 0 4).withFetchWord 16 0xD040, rfl, by decide, by decide⟩⟩

theorem witness_OnlyStoreAndOutReachMemoryAndPorts :
    ∃ t, exec (.ld .a .b) State.reset = .next t ∧ (∀ rx rs, Instr.ld .a .b ≠ .st rx rs) ∧
      ∀ rx rs, Instr.ld .a .b ≠ .ioOut rx rs := ⟨_, rfl, by simp, by simp⟩

/-- A word and a port other than the one written, for the frame clauses of ST and OUT. -/
theorem witness_StoreWritesOneWord_and_OutCommitsOutput :
    (small 0xFFFF 0 0 0 0).reg .a ≠ 0x0000#16 ∧ (small 0xFFFF 0 0 0 0).reg .a = 0xFFFF#16 := by decide

/-- The input side of a port driven and not driven, for the two clauses of `InReadsInputSide`. -/
theorem witness_InReadsInputSide :
    Memory.cell [(0xFFFF, 0xBEEF#16)] (0xFFFF#16).toNat = some 0xBEEF#16 ∧
    Memory.cell [(0xFFFF, 0xBEEF#16)] (0x0000#16).toNat = none := by decide

theorem inv_afterOut : afterOut.Inv where
  mem := nil_wf
  input := nil_wf
  outPending := by decide
  out := by decide
  phase := rfl
  traced := by
    intro p v h
    simp only [lastWritten, afterOut, List.foldl_cons, List.foldl_nil] at h
    split at h
    · rename_i hp
      subst hp
      simp only [Option.some.injEq] at h
      subst h
      exact ⟨rfl, rfl⟩
    · cases h

theorem witness_StepKeepsInvariant :
    ∃ s t : State, s.Inv ∧ step s = .next t ∧ s.outTrace ≠ [] :=
  ⟨afterOut.withFetchWord 16 0x2000, _,
    ⟨by decide, nil_wf, inv_afterOut.outPending, inv_afterOut.out, rfl, inv_afterOut.traced⟩, rfl, by decide⟩

/-- The longest ROM, the empty one, and a position in a ROM. -/
theorem witness_ResetLoadsRomAndClears :
    ((computerAt .interpreter 0).backend = .interpreter ∨ (computerAt .interpreter 0).rom.length ≤ 65535) ∧
    ((computerAt .gates 0).backend = .interpreter ∨ (computerAt .gates 0).rom.length ≤ 65535) ∧
    (List.replicate 65535 0x2000#16).length ≤ 65535 ∧ ([] : List Word).length ≤ 65535 ∧
    1 < [0x6001#16, 0x0000#16].length ∧ [0x6001#16, 0x0000#16].length ≤ 2 :=
  ⟨.inl rfl, .inr (by decide), by rw [List.length_replicate], by decide, by decide, by decide⟩

/-- The last cycle that writes and the first that does not. -/
theorem witness_BootloaderPresentsRomOnce :
    1 < [0x6001#16, 0x0000#16].length ∧ [0x6001#16, 0x0000#16].length ≤ 2 ∧
    bootWriteEnable [0x6001#16, 0x0000#16] (bootEdges [0x6001#16, 0x0000#16] 1 (resetPulse afterOut)) = true ∧
    bootWriteEnable [0x6001#16, 0x0000#16] (bootEdges [0x6001#16, 0x0000#16] 2 (resetPulse afterOut)) = false := by
  decide

theorem witness_BootloaderHoldsCpuDisabled :
    0 < [0x6001#16].length ∧ [0x6001#16].length ≤ 65535 ∧ 1 = [0x6001#16].length := by decide

theorem witness_GatePulsesAreSteps :
    (withWord 0xD080).phase = .fetch ∧ bootWriteEnable [] (withWord 0xD080) = false := by decide

theorem witness_AdderChainAdds :
    [true, false].length = [true, true].length ∧ ([] : Bus).length = ([] : Bus).length := by decide

theorem witness_IsZeroDetectsZero : ([false, false, false] : Bus) ≠ [] ∧ ([true] : Bus) ≠ [] := by decide

theorem witness_MuxAndDmuxSelect :
    [[true], [false], [true], [true]].length = 2 ^ [true, false].length ∧
    (∀ b ∈ [[true], [false], [true], [true]], b.length = 1) ∧ 3 < 2 ^ [true, false].length := by decide

theorem witness_RegisterLoadsUnderWriteEnable : [true, false].length = (Register.holding [false, false]).length := by
  decide

theorem witness_RamPulseWritesAddressedCell :
    (RamTree.filled [false, true] 2).shaped 2 2 = true ∧ [true, false].length = 2 ∧ [true, true].length = 2 := by
  decide

theorem witness_VirtualRamMatchesRamTree :
    (RamTree.filled (busOf 7#16) 1).shaped 16 1 = true ∧ [true].length = 1 ∧ (busOf 9#16).length = 16 ∧
    ∀ a : Bus, a.length = 1 → (VirtualRam.mk [(0, 7#16), (1, 7#16)] none).cells.cell (busValue a) =
      some (wordOfBus ((RamTree.filled (busOf 7#16) 1).read a)) := by
  refine ⟨by decide, rfl, rfl, fun a h => ?_⟩
  match a, h with
  | [false], _ => rfl
  | [true], _ => rfl

/-- A bound sink, a free one, buses of unequal widths, and a netlist with an unbound and one with a doubly bound sink. -/
theorem witness_SinksBindOnce :
    (∃ old, inverter.boundTo 2 = some old) ∧ inverter.boundTo 3 = none ∧ [3, 4].length ≠ [0].length ∧
    (∃ k ∈ Netlist.sinks ⟨[.nand 0 1], [(0, 0)], []⟩, List.countP (fun b => b.1 == k) [(0, 0)] ≠ 1) ∧
    (∃ k ∈ Netlist.sinks ⟨[.input 0], [(0, 0), (0, 1)], [0]⟩,
      List.countP (fun b => b.1 == k) [(0, 0), (0, 1)] ≠ 1) :=
  ⟨⟨1, by decide⟩, by decide, by decide, by decide, by decide⟩

theorem test_netlist_complete :
    inverter.complete = true ∧ Netlist.complete ⟨[.nand 0 1], [(0, 0)], []⟩ = false ∧
    Netlist.complete ⟨[.input 0], [(0, 0), (0, 1)], [0]⟩ = false := by decide

/-- A gate bound to itself by its first sink, and by its second. -/
theorem witness_SelfFeedingGateHasNoValue :
    (Netlist.sources ⟨[.nand 0 1, .input 0], [(0, 0), (1, 1)], []⟩)[0]? = some (.nand 0 1) ∧
    Netlist.boundTo ⟨[.nand 0 1, .input 0], [(0, 0), (1, 1)], []⟩ 0 = some 0 ∧
    Netlist.boundTo ⟨[.nand 0 1, .input 0], [(0, 1), (1, 0)], []⟩ 1 = some 0 := by decide

theorem witness_MemoisedReadAgreesWithPlainEvaluation :
    ∃ (e e' : Engine) (b : Bool), (∀ m ∈ e.memo, m.1 ≠ e.nonce) ∧ e.memo ≠ [] ∧
      Engine.read inverter inverter.depth [] 1 e = .ok (b, e') :=
  ⟨⟨⟨[true], [false]⟩, [false], 5, [(4, 1, true)]⟩, _, _, by decide, by decide, rfl⟩

theorem witness_DeviceSeesWriteOneEdgeLater :
    ∃ s : State, interpreter.enabled s = true ∧ gates.enabled s = true ∧ s.phase = .execute ∧
      decode s.ir = .ok (.ioOut .c .a) :=
  ⟨fetchPulse (withWord 0xF400), rfl, by decide +kernel, rfl, by decide⟩

/-- A device whose ports meet an installed one's, one that meets none, and the first device of all. -/
theorem witness_InstallRefusesPortCollision :
    (∃ e ∈ [echo], ∃ p, p ∈ Device.ports ⟨[0], [], [], echo.react⟩ ∧ p ∈ e.ports) ∧
    (∀ e ∈ [echo], ∀ p, p ∈ Device.ports ⟨[2], [3], [], echo.react⟩ → p ∉ e.ports) ∧
    (∀ e ∈ ([] : List Device), ∀ p, p ∈ echo.ports → p ∉ e.ports) :=
  ⟨⟨echo, by simp, 0, by simp [Device.ports], by simp [Device.ports, echo]⟩,
   by simp [Device.ports, echo], by simp⟩

theorem witness_BoardWithoutDevicesIsStep :
    (interpreter.enabled (withWord 0x4040) = true ∧ gates.enabled (withWord 0x4040) = true ∧
      ∃ t, step (withWord 0x4040) = .next t) ∧
    (gates.enabled (withWord 0xA003) = true ∧ ∃ f, step (withWord 0xA003) = .fault f) :=
  ⟨⟨rfl, by decide +kernel, _, rfl⟩, by decide +kernel, _, rfl⟩

/-- A device that counts its updates and drives nothing. -/
def counter : Device := ⟨[1], [0], [0], fun words _ => (words.map (· + 1), [])⟩

/-- The second part, with a device installed: the interpreter ends an instruction, and it faults. -/
theorem witness_BoardWithoutDevicesIsStep_devices :
    gateCpuEnabled [] (withWord 0x4040) = true ∧
    (∃ ds' t, Board.runInstruction ⟨interpreter, [counter], withWord 0x4040⟩ = .next ⟨interpreter, ds', t⟩) ∧
    (∃ f, Board.runInstruction ⟨interpreter, [counter], withWord 0xA003⟩ = .fault f) := by
  have run : ∀ s : State, s.phase = .fetch → Board.runInstruction ⟨interpreter, [counter], s⟩ =
      Board.executeEdge ⟨interpreter, [⟨[1], [0], [1], counter.react⟩], fetchPulse s⟩ := by
    intro s h
    simp only [Board.runInstruction, Board.fetchEdge, Realisation.pulse, interpreter, h]
    rw [show (updateRounds (Switch.updatesPerInstruction - 1) [counter] s) =
      ([⟨[1], [0], [1], counter.react⟩], s) from rfl]
    simp only [h]
    rfl
  refine ⟨by decide +kernel, ⟨[⟨[1], [0], [2], counter.react⟩], ?_, ?_⟩, ?_, ?_⟩
  on_goal 2 => rw [run _ rfl, executeEdge_undriven (ds' := [⟨[1], [0], [2], counter.react⟩]) rfl]; rfl
  on_goal 2 => rw [run _ rfl, executeEdge_undriven (ds' := [⟨[1], [0], [2], counter.react⟩]) rfl]; rfl

/-- One instruction that halts. -/
def haltedAfterOne : State := { small 1 2 3 4 6 with halted := true, mem := [(5, 0)] }

theorem step_of_halt : step (withWord 0x0000) = .next haltedAfterOne := rfl

theorem halting_run_of_one :
    Computer.runUntilHalt 1 (computerAt .interpreter 0x0000) =
      some (.ok ⟨.interpreter, [], .ready, [], haltedAfterOne⟩) := by
  have h : Board.runInstruction ⟨interpreter, [], withWord 0x0000⟩ = .next ⟨interpreter, [], haltedAfterOne⟩ := by
    have hv := executeView_same (fetchPulse (withWord 0x0000))
    show Board.executeEdge ⟨interpreter, [], fetchPulse (withWord 0x0000)⟩ = _
    simp only [Board.executeEdge, updateDevices, hv]
    rfl
  simp only [Computer.runUntilHalt, Computer.runNextInstruction, Computer.ifReady, Computer.board, Computer.machine,
    computerAt]
  rw [show Board.runInstruction ⟨⟨.interpreter, []⟩, [], withWord 0x0000⟩ = _ from h]
  rfl

/-- Both directions at the least fuel: what `runUntilHalt` returns, and the first halting state. -/
theorem witness_RunUntilHaltStopsAtFirstHlt :
    (computerAt .interpreter 0x0000).devices = [] ∧ (computerAt .interpreter 0x0000).state.phase = .fetch ∧
    (computerAt .interpreter 0x0000).machine.enabled (withWord 0x0000) = true ∧
    (∃ c', Computer.runUntilHalt 1 (computerAt .interpreter 0x0000) = some (.ok c') ∧ c'.status = .ready) ∧
    (computerAt .interpreter 0x0000).status = .ready ∧
    runSteps 1 (withWord 0x0000) = .next haltedAfterOne ∧ Final (runSteps 1 (withWord 0x0000)) ∧
    ∀ j, 0 < j → j < 1 → ¬Final (runSteps j (withWord 0x0000)) :=
  ⟨rfl, rfl, rfl, ⟨_, halting_run_of_one, rfl⟩, rfl, rfl, ⟨_, rfl, rfl⟩, fun j h h' => absurd h' (by omega)⟩

theorem witness_FaultStateLeftOnlyByReset :
    ((computerAt .gates 0x5400).status = .ready ∧ (computerAt .gates 0x5400).devices = [] ∧
      (computerAt .gates 0x5400).machine.enabled (computerAt .gates 0x5400).state = true ∧
      step (computerAt .gates 0x5400).state = .fault (.decodeFault 0x5400#16 5#16)) ∧
    ∃ c : Computer, c.status = .faulted 0x5400#16 5#16 :=
  ⟨⟨rfl, rfl, by decide +kernel, rfl⟩, ⟨.gates, [], .faulted 0x5400#16 5#16, [], withWord 0x5400⟩, rfl⟩

end Sys2Proof.Tests
end

section
/-!
SUPPORT. What instructions do to the flags register and what they read of it (spec/10_state.md R31), in both
realisations.
-/

namespace Sys2Proof.Proofs

open Sys2Proof.Machine

/-! ## Instructions on the flags -/

/-- An instruction that has an ALU operation is the ALU instruction of that operation. -/
theorem eq_aluInstr_of_aluOp {i : Instr} {op : AluOp} (h : i.aluOp = some op) :
    ∃ dst ra rb, i = aluInstr op dst ra rb := by
  cases i <;> cases h <;> exact ⟨_, _, _, rfl⟩

/-- Every ALU instruction is the shared ALU step on its operation's reference function (43_alu.md R181). -/
theorem exec_aluInstr (op : AluOp) (dst : AluDest) (ra rb : Reg) (s : State) :
    exec (aluInstr op dst ra rb) s = .next (aluStep (aluReference op) dst ra rb s) := by
  cases op <;> rfl

/-- The ALU step overwrites the flags without looking at them. -/
theorem aluStep_setFlags (g : Word → Word → AluResult) (dst : AluDest) (ra rb : Reg) (s : State) (f : Flags) :
    aluStep g dst ra rb (s.setFlags f) = aluStep g dst ra rb s := rfl

theorem exec_aluInstr_setFlags (op : AluOp) (dst : AluDest) (ra rb : Reg) (s : State) (f : Flags) :
    exec (aluInstr op dst ra rb) (s.setFlags f) = exec (aluInstr op dst ra rb) s := by
  rw [exec_aluInstr, exec_aluInstr, aluStep_setFlags]

/-- What an instruction completes with holds of every next state it answers. -/
theorem post_of_completes {i : Instr} {s t : State} {post : State → Prop} (h : Completes i s post)
    (ht : exec i s = .next t) : post t := by
  obtain ⟨u, hu, hpost⟩ := h
  obtain rfl : u = t := Host.Outcome.next.inj (hu.symm.trans ht)
  exact hpost

/-- Every instruction but the ALU's keeps the flags; a CMP jump keeps them on both of its ways. -/
theorem completes_keeping_flags {i : Instr} (hi : i.aluOp = none) (s : State) :
    Completes i s (fun t => t.flags = s.flags) := by
  cases i with
  | hlt | nop | mov | movIp | movFlags | setl | seth | cmpS | ld | st | ioIn | ioOut => exact ⟨_, rfl, rfl⟩
  | cmpJ cond rt => exact ⟨_, rfl, by split <;> rfl⟩
  | _ => cases hi

/-- An instruction that is no ALU instruction and none of the flags' three readers does the same whatever the flags are,
and carries them along. -/
theorem completes_carrying_flags {i : Instr} (hi : i.aluOp = none) (hs : ∀ c r, i ≠ .cmpS c r)
    (hj : ∀ c r, i ≠ .cmpJ c r) (hm : ∀ r, i ≠ .movFlags r) (s : State) (f : Flags) :
    Completes i s (fun t => exec i (s.setFlags f) = .next (t.setFlags f)) := by
  cases i with
  | hlt | nop | mov | movIp | setl | seth | ld | st | ioIn | ioOut => exact ⟨_, rfl, rfl⟩
  | cmpS cond rd => exact absurd rfl (hs cond rd)
  | cmpJ cond rt => exact absurd rfl (hj cond rt)
  | movFlags rd => exact absurd rfl (hm rd)
  | _ => cases hi

/-! ## Who reads the flags -/

/-- An instruction that writes a register with a function of the flags reads them, if that function is not constant. -/
theorem readsFlags_of_setReg {i : Instr} {r : Reg} {v : Flags → Word}
    (h : ∀ s, exec i s = .next (s.setReg r (v s.flags)).advance) {f f' : Flags} (hv : v f ≠ v f') :
    ReadsFlags i := by
  refine ⟨State.reset.setFlags f, _, _, f', h _, h _, fun he => hv ?_⟩
  calc v f = ((State.reset.setFlags f).setReg r (v f)).reg r := (reg_setReg_same _ r _).symm
    _ = ((State.reset.setFlags f').setReg r (v f')).reg r := (congrArg (fun t : State => t.reg r) he).symm
    _ = v f' := reg_setReg_same _ r _

theorem readsFlags_movFlags (r : Reg) : ReadsFlags (.movFlags r) :=
  readsFlags_of_setReg (v := flagsWord) (f := ⟨false, false, false⟩) (f' := ⟨true, false, false⟩)
    (fun _ => rfl) (by decide)

theorem readsFlags_cmpS_equal (r : Reg) : ReadsFlags (.cmpS ⟨true, false, false⟩ r) :=
  readsFlags_of_setReg (v := fun f => boolWord (condTrue ⟨true, false, false⟩ f))
    (f := ⟨false, false, false⟩) (f' := ⟨true, false, false⟩) (fun _ => rfl) (by decide)

/-- From reset, where every register holds 0: with Z clear the jump on equal falls through to 1, with Z set it is taken
to 0. -/
theorem readsFlags_cmpJ_equal (r : Reg) : ReadsFlags (.cmpJ ⟨true, false, false⟩ r) := by
  refine ⟨State.reset, State.reset.advance, (State.reset.setFlags ⟨true, false, false⟩).goto (State.reset.reg r),
    ⟨true, false, false⟩, rfl, rfl, fun he => ?_⟩
  have hpc : State.reset.reg r = State.reset.pc + 1 := congrArg State.pc he
  cases r <;> exact absurd hpc (by decide)

/-- An ALU instruction answers one and the same state, the others a state that differs in the flags alone. -/
theorem not_readsFlags {i : Instr} (hs : ∀ c r, i ≠ .cmpS c r) (hj : ∀ c r, i ≠ .cmpJ c r)
    (hm : ∀ r, i ≠ .movFlags r) : ¬ReadsFlags i := by
  rintro ⟨s, t, t', f, ht, ht', hne⟩
  cases hi : i.aluOp with
  | some op =>
    obtain ⟨dst, ra, rb, rfl⟩ := eq_aluInstr_of_aluOp hi
    obtain rfl : t' = t := Host.Outcome.next.inj (ht'.symm.trans ((exec_aluInstr_setFlags op dst ra rb s f).trans ht))
    exact hne rfl
  | none =>
    have hcarry := post_of_completes (completes_carrying_flags hi hs hj hm s f) ht
    obtain rfl : t' = t.setFlags f := Host.Outcome.next.inj (ht'.symm.trans hcarry)
    exact hne rfl

/-! ## The gate backend -/

@[simp] theorem opField_packWord (op : BitVec 3) (fl : Bool) (ra rb : BitVec 3) (low : BitVec 6) :
    opField (packWord op fl ra rb low) = op := by
  apply BitVec.eq_of_getLsbD_eq
  intro k hk
  simp only [opField, packWord, BitVec.getLsbD_extractLsb', BitVec.getLsbD_append]
  interval_cases k <;> simp

@[simp] theorem opField_packSet (fl : Bool) (ra : BitVec 3) (imm : BitVec 8) : opField (packSet fl ra imm) = 3#3 := by
  apply BitVec.eq_of_getLsbD_eq
  intro k hk
  simp only [opField, packSet, BitVec.getLsbD_extractLsb', BitVec.getLsbD_append]
  interval_cases k <;> simp

@[simp] theorem opField_packMemIo (op : BitVec 3) (fl : Bool) (addr data : Reg) :
    opField (packMemIo op fl addr data) = op := opField_packWord op fl _ _ _

/-- Only ALU instructions are encoded under opcode 5 (30_encoding.md R97). -/
theorem opField_encode_ne_alu {i : Instr} (hi : i.aluOp = none) : opField (encode i) ≠ 5#3 := by
  cases i with
  | hlt | nop | mov | movIp | movFlags | setl | seth | cmpS | cmpJ | ld | st | ioIn | ioOut => simp [encode]
  | _ => cases hi

/-- The first three wires of an instruction bus carry the opcode (30_encoding.md R91). -/
theorem take_busOf_opcode (w : Word) : (busOf w).take 3 = busOf (opField w) := by
  simp [busOf, opField, List.range_succ, BitVec.getMsbD]

/-- The decoder raises the ALU's enable line on opcode 5 alone (R295). -/
theorem gateDecoder_alu (w : Word) : (gateDecoder true (busOf w)).alu = decide (opField w = 5#3) := by
  have hline : ∀ op : BitVec 3, (dmuxTree (busOf op) true).getD 5 false = decide (op = 5#3) := by decide
  simp only [gateDecoder, take_busOf_opcode, hline]

/-- Without the ALU's enable line the flags register holds (R298). -/
theorem gateExecuteWord_flags {w : Bus} (h : (gateDecoder true w).alu = false) (s : State) :
    (gateExecuteWord w s).flags = s.flags := by
  simp [gateExecuteWord, h]

theorem gateInject_next {w : Word} {s t : State} (h : gateInject w s = .next t) :
    t = gateExecuteWord (busOf w) s := by
  unfold gateInject at h
  split at h
  · exact (Host.Outcome.next.inj h).symm
  · cases h

/-! ## Injection -/

/-- An injected instruction that is no ALU instruction keeps the flags, in both realisations. -/
theorem inject_flags {m : Realisation} {i : Instr} {s t : State} (hi : i.aluOp = none)
    (h : m.inject i s = .next t) : t.flags = s.flags := by
  obtain ⟨backend, rom⟩ := m
  cases backend with
  | interpreter => exact post_of_completes (completes_keeping_flags hi s) h
  | gates =>
    obtain rfl := gateInject_next h
    exact gateExecuteWord_flags ((gateDecoder_alu _).trans (decide_eq_false (opField_encode_ne_alu hi))) s

/-- A list that ran through ran its first instruction, and the rest from there. -/
theorem injectAll_cons_next {m : Realisation} {i : Instr} {is : List Instr} {s t : State}
    (h : injectAll m (i :: is) s = .next t) : ∃ u, m.inject i s = .next u ∧ injectAll m is u = .next t := by
  unfold injectAll at h
  split at h
  · rename_i u hu
    exact ⟨u, hu, h⟩
  all_goals cases h

theorem injectAll_flags {m : Realisation} {is : List Instr} {s t : State} (his : ∀ i ∈ is, i.aluOp = none)
    (h : injectAll m is s = .next t) : t.flags = s.flags := by
  induction is generalizing s with
  | nil => cases h; rfl
  | cons i is ih =>
    obtain ⟨u, hu, ht⟩ := injectAll_cons_next h
    calc t.flags = u.flags := ih (fun j hj => his j (List.mem_cons_of_mem i hj)) ht
      _ = s.flags := inject_flags (his i List.mem_cons_self) hu

/-! ## The obligation -/

/-- Settles O27: ALU instructions overwrite the flags unseen, the others carry them along, and the three readers' next
states show the flags in a register or in `pc`. -/
theorem onlyAluInstructionsWriteFlags : Obligations.OnlyAluInstructionsWriteFlags := by
  unfold Obligations.OnlyAluInstructionsWriteFlags
  refine ⟨fun op dst ra rb s f => ?_, fun i s t hi ht => ?_, fun m is s t his ht => ?_,
    fun s => ⟨fetchPulse_flags s, rfl⟩,
    fun r => ⟨readsFlags_movFlags r, readsFlags_cmpS_equal r, readsFlags_cmpJ_equal r⟩,
    fun i hs hj hm => not_readsFlags hs hj hm⟩
  · have hexec := exec_aluInstr op dst ra rb s
    exact ⟨_, hexec, (exec_aluInstr_setFlags op dst ra rb s f).trans hexec⟩
  · exact post_of_completes (completes_keeping_flags hi s) ht
  · exact injectAll_flags his ht

end Sys2Proof.Proofs
end

section
/-!
SUPPORT. `Z` and `N` of the ALU follow the final result (spec/43_alu.md R184): in the instruction through the shared ALU
step, in the gate ALU through the width of its output bus.
-/

namespace Sys2Proof.Proofs

open Sys2Proof.Machine

/-! ## The ALU instruction -/

/-- The destination of the ALU step holds the final result. -/
@[simp] theorem reg_aluStep_dest (f : Word → Word → AluResult) (dst : AluDest) (ra rb : Reg) (s : State) :
    (aluStep f dst ra rb s).reg dst.reg = (f (s.reg ra) (s.reg rb)).r := by
  simp [aluStep]

@[simp] theorem flags_aluStep (f : Word → Word → AluResult) (dst : AluDest) (ra rb : Reg) (s : State) :
    (aluStep f dst ra rb s).flags = aluFlags (f (s.reg ra) (s.reg rb)) := rfl

theorem aluFlags_z_iff (res : AluResult) : (aluFlags res).z = true ↔ res.r = 0#16 := beq_iff_eq

theorem aluFlags_n (res : AluResult) : (aluFlags res).n = res.r.getLsbD 15 := BitVec.msb_eq_getLsbD_last res.r

/-! ## Widths in the gate ALU -/

@[simp] theorem busSwitch_length (sel : Bool) (x y : Bus) :
    (busSwitch sel x y).length = min x.length y.length := List.length_zipWith

@[simp] theorem operandStage_length (zero negate : Bool) (b : Bus) : (operandStage zero negate b).length = b.length := by
  simp [operandStage]

/-- The word adder's sum is as wide as its operands. -/
theorem wordAdder_length {a b : Bus} (h : a.length = b.length) : (wordAdder a b).sum.length = a.length :=
  adderChain_length false a b h

/-- A multiplexer over buses of one width is of that width. -/
theorem muxTree_length {n : Nat} (addr : Bus) (inputs : List Bus) (hcount : inputs.length = 2 ^ addr.length)
    (hwidth : ∀ b ∈ inputs, b.length = n) : (muxTree addr inputs).length = n := by
  induction addr generalizing inputs with
  | nil =>
    obtain ⟨b, rfl⟩ := List.length_eq_one_iff.mp hcount
    exact hwidth b List.mem_cons_self
  | cons sel rest ih =>
    have hhalf : inputs.length = 2 ^ rest.length * 2 := by rw [hcount, List.length_cons, pow_succ]
    have hlow := ih (inputs.take (inputs.length / 2)) (by rw [List.length_take]; omega)
      fun b hb => hwidth b (List.mem_of_mem_take hb)
    have hhigh := ih (inputs.drop (inputs.length / 2)) (by rw [List.length_drop]; omega)
      fun b hb => hwidth b (List.mem_of_mem_drop hb)
    simp only [muxTree, busSwitch_length, hlow, hhigh, min_self]

/-- The gate ALU's output is as wide as its operands: the main path and the three alternates all are (R290, R293). -/
theorem gateAlu_out_length (l : AluLines) {a b : Bus} (h : a.length = b.length) (ha : 0 < a.length) :
    (gateAlu l a b).out.length = a.length := by
  have hsum : (wordAdder (operandStage l.za l.na a) (operandStage l.zb l.nb b)).sum.length = a.length := by
    rw [wordAdder_length (by simpa using h), operandStage_length]
  refine muxTree_length _ _ rfl fun x hx => ?_
  simp only [List.mem_cons, List.not_mem_nil, or_false] at hx
  obtain rfl | rfl | rfl | rfl := hx
  · simp [hsum, ← h]
  · simp only [List.length_append, List.length_drop, List.length_singleton]; omega
  · simp only [List.length_cons, List.length_dropLast]; omega
  · simp [← h]

/-- On operands of at least one wire the negative output is the output bus's top wire. -/
theorem gateAlu_negative (l : AluLines) {a b : Bus} (h : a.length = b.length) (ha : 0 < a.length) :
    some (gateAlu l a b).negative = (gateAlu l a b).out.head? := by
  have hlen := gateAlu_out_length l h ha
  show some ((gateAlu l a b).out.headD false) = _
  cases hout : (gateAlu l a b).out with
  | nil => rw [hout, List.length_nil] at hlen; omega
  | cons top rest => rfl

/-! ## The obligation -/

/-- Settles O26: every ALU instruction is the shared ALU step, whose flags are those of the word it writes, and the gate
ALU's output bus, as wide as its operands, has a top wire. -/
theorem zeroAndNegativeFollowResult : Obligations.ZeroAndNegativeFollowResult := by
  unfold Obligations.ZeroAndNegativeFollowResult
  refine ⟨fun op dst ra rb s => ⟨_, exec_aluInstr op dst ra rb s, ?_⟩, fun l a b => ?_⟩
  · simp only [flags_aluStep, reg_aluStep_dest]
    exact ⟨aluFlags_z_iff _, aluFlags_n _⟩
  · have hwidth : (busOf a).length = (busOf b).length := by simp
    have hpos : 0 < (busOf a).length := by simp
    exact ⟨rfl, gateAlu_negative l hwidth hpos, (gateAlu_out_length l hwidth hpos).trans (busOf_length a)⟩

end Sys2Proof.Proofs
end

section
/-!
SUPPORT. The DFF and the register bank through tick and tock (spec/47_gate_level_engine.md R274, R275).
-/

namespace Sys2Proof.Proofs

open Sys2Proof.Machine

/-! ## One cell -/

@[simp] theorem latched_dffTick (c : Dff) (d : Bool) : (c.tick d).latched = d := rfl

@[simp] theorem committed_dffTick (c : Dff) (d : Bool) : (c.tick d).committed = c.committed := rfl

@[simp] theorem committed_dffTock (c : Dff) : c.tock.committed = c.latched := rfl

/-- Settles O47: a tock commits the latched bit, which is the input of the last tick before it. -/
theorem dffSamplesThenCommits : Obligations.DffSamplesThenCommits := by
  unfold Obligations.DffSamplesThenCommits
  intro c d
  have shown (c : Dff) (d : Bool) : (c.tick d).tock.committed = d := by rw [committed_dffTock, latched_dffTick]
  exact ⟨latched_dffTick c d, committed_dffTick c d, shown c d, fun d' => shown (c.tick d) d'⟩

/-! ## A bank of cells -/

@[simp] theorem registerTick_cons (c : Dff) (r : Register) (we d : Bool) (input : Bus) :
    Register.tick (c :: r) we (d :: input) = c.tick (muxGate we c.committed d) :: Register.tick r we input := rfl

@[simp] theorem registerOut_cons (c : Dff) (r : Register) : Register.out (c :: r) = c.committed :: Register.out r := rfl

/-- Nothing shows between tick and tock. -/
theorem registerOut_tick {r : Register} (we : Bool) {input : Bus} (h : input.length = r.length) :
    (r.tick we input).out = r.out := by
  induction r generalizing input with
  | nil => rfl
  | cons c r ih =>
    cases input with
    | nil => simp at h
    | cons d input => simp [ih (by simpa using h)]

/-- A tick looks at the committed bits alone: what a cell had latched before does not matter. -/
theorem registerTick_holding_out (r : Register) (we : Bool) (input : Bus) :
    (Register.holding r.out).tick we input = r.tick we input := by
  simp only [Register.tick, Register.holding, Register.out, List.map_map, List.zipWith_map_left]
  rfl

/-- After the tock a register shows what the pulse of the register that holds its output shows. -/
theorem registerOut_tock_tick {r : Register} (we : Bool) {input : Bus} (h : input.length = r.length) :
    (r.tick we input).tock.out = if we then input else r.out := by
  have hwidth : input.length = r.out.length := by simpa [Register.out] using h
  calc (r.tick we input).tock.out = registerPulse we input r.out := by
        rw [registerPulse, registerTick_holding_out]
    _ = if we then input else r.out := registerPulse_eq we hwidth

/-- The tock reaches every cell. -/
theorem committed_of_mem_registerTock {r : Register} {c : Dff} (hc : c ∈ r.tock) : c.committed = c.latched := by
  obtain ⟨c, -, rfl⟩ := List.mem_map.mp hc
  exact committed_dffTock c

/-- Settles O48: the tick leaves the committed bits, so the output; the tock shows the pulse of the register that holds
that output. -/
theorem registerLoadsUnderWriteEnable : Obligations.RegisterLoadsUnderWriteEnable := by
  unfold Obligations.RegisterLoadsUnderWriteEnable
  intro r we input h
  exact ⟨registerOut_tick we h, registerOut_tock_tick we h, fun _ hc => committed_of_mem_registerTock hc,
    fun c d => registerTick_cons c [] we d []⟩

end Sys2Proof.Proofs
end

section
/-!
SUPPORT. Injection of a list of instructions (spec/60_exceptions.md R357, R358): in both realisations every instruction
answers a next state, for the gate backend because no canonical word is reserved; then what is put back.
-/

namespace Sys2Proof.Proofs

open Sys2Proof.Machine

/-! ## Canonical words are not reserved -/

@[simp] theorem xsrcField_packWord (op : BitVec 3) (fl : Bool) (ra rb : BitVec 3) (low : BitVec 6) :
    xsrcField (packWord op fl ra rb low) = BitVec.ofBool fl ++ ra := by
  apply BitVec.eq_of_getLsbD_eq
  intro k hk
  simp only [xsrcField, packWord, BitVec.getLsbD_extractLsb', BitVec.getLsbD_append]
  interval_cases k <;> simp

@[simp] theorem aluopField_packWord (op : BitVec 3) (fl : Bool) (ra rb : BitVec 3) (low : BitVec 6) :
    aluopField (packWord op fl ra rb low) = low := by
  apply BitVec.eq_of_getLsbD_eq
  intro k hk
  simp only [aluopField, packWord, BitVec.getLsbD_extractLsb', BitVec.getLsbD_append]
  interval_cases k <;> simp

/-- Below the reserved extended sources a MOV decodes (30_encoding.md R100). -/
theorem decodeMov_ok {w : Word} (h : (xsrcField w).toNat < 10) : ∃ i, decodeMov w = .ok i := by
  unfold decodeMov
  generalize (xsrcField w).toNat = code at h ⊢
  interval_cases code <;> exact ⟨_, rfl⟩

theorem decodeAlu_ok {w : Word} (h : ∃ op, Switch.aluTable.opOf (aluopField w) = some op) :
    ∃ i, decodeAlu w = .ok i := by
  obtain ⟨op, hop⟩ := h
  simp [decodeAlu, hop]

/-- Only a MOV word and an ALU word can be reserved (30_encoding.md R120). -/
theorem decode_ok {w : Word} (hmov : opField w = 2#3 → (xsrcField w).toNat < 10)
    (halu : opField w = 5#3 → ∃ op, Switch.aluTable.opOf (aluopField w) = some op) : ∃ i, decode w = .ok i := by
  unfold decode
  split
  case h_3 hop => exact decodeMov_ok (hmov (BitVec.eq_of_toNat_eq hop))
  case h_6 hop => exact decodeAlu_ok (halu (BitVec.eq_of_toNat_eq hop))
  all_goals exact ⟨_, rfl⟩

theorem encode_aluInstr (op : AluOp) (dst : AluDest) (ra rb : Reg) :
    encode (aluInstr op dst ra rb) = packAlu op dst ra rb := by
  cases op <;> rfl

/-- Every operation has a row, and no row before it has its code (43_alu.md R183). -/
theorem aluTable_opOf_codeOf (op : AluOp) : Switch.aluTable.opOf ((Switch.aluTable.codeOf op).getD 0#6) = some op := by
  cases op <;> rfl

/-- The extended source of an instruction encoded under opcode 2 is a register's code, IP's or FLAGS'. -/
theorem xsrcField_encode_lt {i : Instr} (h : opField (encode i) = 2#3) : (xsrcField (encode i)).toNat < 10 := by
  cases hi : i.aluOp with
  | some op =>
    obtain ⟨dst, ra, rb, rfl⟩ := eq_aluInstr_of_aluOp hi
    simp [encode_aluInstr, packAlu] at h
  | none =>
    cases i with
    | mov rd rs => cases rs <;> simp [encode, Reg.code]
    | movIp | movFlags => simp [encode]
    | hlt | nop | setl | seth | cmpS | cmpJ | ld | st | ioIn | ioOut => simp [encode] at h
    | _ => cases hi

theorem decode_encode_ok (i : Instr) : ∃ j, decode (encode i) = .ok j := by
  refine decode_ok xsrcField_encode_lt fun h => ?_
  cases hi : i.aluOp with
  | none => exact absurd h (opField_encode_ne_alu hi)
  | some op =>
    obtain ⟨dst, ra, rb, rfl⟩ := eq_aluInstr_of_aluOp hi
    rw [encode_aluInstr, packAlu, aluopField_packWord]
    exact ⟨op, aluTable_opOf_codeOf op⟩

/-! ## One injected instruction -/

/-- Every instruction completes, and none writes an input side. -/
theorem completes_keeping_input (i : Instr) (s : State) : Completes i s (fun t => t.input = s.input) := by
  cases hi : i.aluOp with
  | some op =>
    obtain ⟨dst, ra, rb, rfl⟩ := eq_aluInstr_of_aluOp hi
    exact ⟨_, exec_aluInstr op dst ra rb s, rfl⟩
  | none =>
    cases i with
    | hlt | nop | mov | movIp | movFlags | setl | seth | cmpS | ld | st | ioIn | ioOut => exact ⟨_, rfl, rfl⟩
    | cmpJ cond rt => exact ⟨_, rfl, by split <;> rfl⟩
    | _ => cases hi

theorem gateExecuteWord_input (w : Bus) (s : State) : (gateExecuteWord w s).input = s.input := rfl

/-- The gate backend executes a word that decodes. -/
theorem gateInject_of_decode {w : Word} {i : Instr} (h : decode w = .ok i) (s : State) :
    gateInject w s = .next (gateExecuteWord (busOf w) s) := by
  simp [gateInject, h]

theorem inject_completes (m : Realisation) (i : Instr) (s : State) :
    ∃ t, m.inject i s = .next t ∧ t.input = s.input := by
  obtain ⟨backend, rom⟩ := m
  cases backend with
  | interpreter => exact completes_keeping_input i s
  | gates =>
    obtain ⟨j, hj⟩ := decode_encode_ok i
    exact ⟨_, gateInject_of_decode hj s, gateExecuteWord_input _ s⟩

/-! ## The list -/

theorem injectAll_cons_of_next {m : Realisation} {i : Instr} {s t : State} (h : m.inject i s = .next t)
    (is : List Instr) : injectAll m (i :: is) s = injectAll m is t := by
  simp [injectAll, h]

theorem injectAll_completes (m : Realisation) (is : List Instr) (s : State) :
    ∃ t, injectAll m is s = .next t ∧ t.input = s.input := by
  induction is generalizing s with
  | nil => exact ⟨s, rfl, rfl⟩
  | cons i is ih =>
    obtain ⟨u, hu, hus⟩ := inject_completes m i s
    obtain ⟨t, ht, htu⟩ := ih u
    exact ⟨t, (injectAll_cons_of_next hu is).trans ht, htu.trans hus⟩

/-! ## What is put back -/

theorem injectInstructions_of_next {m : Realisation} {is : List Instr} {s t : State} (h : injectAll m is s = .next t)
    (haltedAfter : Bool) : injectInstructions m is haltedAfter s = .next (restoreAfterInjection s haltedAfter t) := by
  simp [injectInstructions, h]

/-- After the restoring `Q` reads as before the call and every other register as the list left it. -/
theorem reg_restoreAfterInjection (before after : State) (haltedAfter : Bool) (r : Reg) :
    (restoreAfterInjection before haltedAfter after).reg r = if r = .q then before.reg .q else after.reg r :=
  get_set after.regs .q r (before.reg .q)

/-! ## The obligation -/

/-- Settles O58: the list runs through in either realisation and leaves the input sides, and the restoring overwrites
`pc`, `Q` and the halted flag alone. -/
theorem injectionRestoresIpAndQ : Obligations.InjectionRestoresIpAndQ := by
  unfold Obligations.InjectionRestoresIpAndQ
  intro m is haltedAfter s
  obtain ⟨u, hu, hinput⟩ := injectAll_completes m is s
  have hreg := reg_restoreAfterInjection s u haltedAfter
  exact ⟨_, u, injectInstructions_of_next hu haltedAfter, hu, rfl, (hreg .q).trans (if_pos rfl),
    fun r hr => (hreg r).trans (if_neg hr), rfl, fun _ => rfl, rfl, rfl, rfl, hinput⟩

end Sys2Proof.Proofs
end

section
/-!
SUPPORT. The bootloader's counter from the reset pulse on (spec/70_reset_and_hazards.md R372 to R375): at an edge it goes one
up towards the ROM's length, and stays there.
-/

namespace Sys2Proof.Proofs

open Sys2Proof.Machine

/-! ## One edge -/

theorem bootWriteEnable_iff (rom : List Word) (s : State) :
    bootWriteEnable rom s = true ↔ s.bootCount ≠ BitVec.ofNat 16 rom.length := by
  simp [bootWriteEnable]

/-- The counter advances exactly under write-enable, whether or not the ROM has a word there. -/
theorem bootEdge_bootCount (rom : List Word) (s : State) :
    (bootEdge rom s).bootCount = if bootWriteEnable rom s then s.bootCount + 1 else s.bootCount := by
  unfold bootEdge
  split
  · split <;> rfl
  · rfl

/-! ## The counter within the ROM

Up to 65535 the 16-bit counter tells all positions of the ROM and its end apart (R375). -/

theorem bootWriteEnable_iff_lt {rom : List Word} {s : State} {j : Nat} (hN : rom.length ≤ 65535) (hj : j ≤ rom.length)
    (hs : s.bootCount = BitVec.ofNat 16 j) : bootWriteEnable rom s = true ↔ j < rom.length := by
  rw [bootWriteEnable_iff, hs, ne_eq, BitVec.toNat_eq, BitVec.toNat_ofNat, BitVec.toNat_ofNat]
  omega

theorem bootData_at {rom : List Word} {s : State} {j : Nat} (hj : j ≤ 65535) (hs : s.bootCount = BitVec.ofNat 16 j) :
    bootData rom s = rom[j]? := by
  rw [bootData, hs, BitVec.toNat_ofNat, Nat.mod_eq_of_lt (by omega)]

theorem bootEdge_bootCount_at {rom : List Word} {s : State} {j : Nat} (hN : rom.length ≤ 65535) (hj : j ≤ rom.length)
    (hs : s.bootCount = BitVec.ofNat 16 j) :
    (bootEdge rom s).bootCount = BitVec.ofNat 16 (min (j + 1) rom.length) := by
  rw [bootEdge_bootCount]
  split
  case isTrue hwe =>
    have hlt : j < rom.length := (bootWriteEnable_iff_lt hN hj hs).mp hwe
    rw [min_eq_left hlt, hs, BitVec.ofNat_add]
    rfl
  case isFalse hwe =>
    have hend : j = rom.length := hj.antisymm (not_lt.mp (mt (bootWriteEnable_iff_lt hN hj hs).mpr hwe))
    rw [min_eq_right (by omega), hs, hend]

/-! ## Any number of edges -/

theorem bootEdges_bootCount_at {rom : List Word} (hN : rom.length ≤ 65535) (k : Nat) {s : State} {j : Nat}
    (hj : j ≤ rom.length) (hs : s.bootCount = BitVec.ofNat 16 j) :
    (bootEdges rom k s).bootCount = BitVec.ofNat 16 (min (j + k) rom.length) := by
  induction k generalizing s j with
  | zero => rw [bootEdges, hs, Nat.add_zero, min_eq_left hj]
  | succ k ih =>
    have hsum : min (min (j + 1) rom.length + k) rom.length = min (j + (k + 1)) rom.length := by omega
    rw [bootEdges, ih (min_le_right _ _) (bootEdge_bootCount_at hN hj hs), hsum]

theorem bootEdges_resetPulse_bootCount {rom : List Word} (hN : rom.length ≤ 65535) (k : Nat) (s : State) :
    (bootEdges rom k (resetPulse s)).bootCount = BitVec.ofNat 16 (min k rom.length) := by
  have hcount := bootEdges_bootCount_at hN k (s := resetPulse s) (Nat.zero_le _) rfl
  rwa [Nat.zero_add] at hcount

/-! ## The obligation -/

/-- Settles O40: after `k` edges the counter is the lesser of `k` and the ROM's length, and the three outputs are read off
it. -/
theorem bootloaderPresentsRomOnce : Obligations.BootloaderPresentsRomOnce := by
  unfold Obligations.BootloaderPresentsRomOnce
  intro rom s k hN b
  have hcount : b.bootCount = BitVec.ofNat 16 (min k rom.length) := bootEdges_resetPulse_bootCount hN k s
  have hwe := bootWriteEnable_iff_lt hN (min_le_right k rom.length) hcount
  constructor
  · intro hk
    rw [min_eq_left hk.le] at hcount hwe
    exact ⟨hwe.mpr hk, hcount, bootData_at (by omega) hcount⟩
  · intro hk
    rw [min_eq_right hk] at hwe
    exact Bool.eq_false_iff.mpr (mt hwe.mp (lt_irrefl _))

end Sys2Proof.Proofs
end

section
/-!
SUPPORT. Encoding and decoding as inverses (spec/30_encoding.md R105, R106, R110): a word decodes to an instruction exactly
when it is the instruction's canonical word with the unused bits filled in some way.
-/

namespace Sys2Proof.Proofs

open Sys2Proof.Machine Sys2Proof.Laws

/-! ## Fields of packed words -/

@[simp] theorem flField_packWord (op : BitVec 3) (fl : Bool) (ra rb : BitVec 3) (low : BitVec 6) :
    flField (packWord op fl ra rb low) = fl := by
  simp only [flField, packWord, BitVec.getLsbD_append]
  simp

@[simp] theorem raField_packWord (op : BitVec 3) (fl : Bool) (ra rb : BitVec 3) (low : BitVec 6) :
    raField (packWord op fl ra rb low) = ra := by
  apply BitVec.eq_of_getLsbD_eq
  intro k hk
  simp only [raField, packWord, BitVec.getLsbD_extractLsb', BitVec.getLsbD_append]
  interval_cases k <;> simp

@[simp] theorem rbField_packWord (op : BitVec 3) (fl : Bool) (ra rb : BitVec 3) (low : BitVec 6) :
    rbField (packWord op fl ra rb low) = rb := by
  apply BitVec.eq_of_getLsbD_eq
  intro k hk
  simp only [rbField, packWord, BitVec.getLsbD_extractLsb', BitVec.getLsbD_append]
  interval_cases k <;> simp

@[simp] theorem flField_packSet (fl : Bool) (ra : BitVec 3) (imm : BitVec 8) : flField (packSet fl ra imm) = fl := by
  simp only [flField, packSet, BitVec.getLsbD_append]
  simp

@[simp] theorem raField_packSet (fl : Bool) (ra : BitVec 3) (imm : BitVec 8) : raField (packSet fl ra imm) = ra := by
  apply BitVec.eq_of_getLsbD_eq
  intro k hk
  simp only [raField, packSet, BitVec.getLsbD_extractLsb', BitVec.getLsbD_append]
  interval_cases k <;> simp

@[simp] theorem immField_packSet (fl : Bool) (ra : BitVec 3) (imm : BitVec 8) : immField (packSet fl ra imm) = imm := by
  apply BitVec.eq_of_getLsbD_eq
  intro k hk
  simp only [immField, packSet, BitVec.getLsbD_extractLsb', BitVec.getLsbD_append]
  interval_cases k <;> simp

/-- A word is its fields (R91). -/
theorem packWord_fields (w : Word) :
    packWord (opField w) (flField w) (raField w) (rbField w) (aluopField w) = w := by
  apply BitVec.eq_of_getLsbD_eq
  intro k hk
  simp only [packWord, opField, flField, raField, rbField, aluopField, BitVec.getLsbD_append,
    BitVec.getLsbD_extractLsb', BitVec.getLsbD_ofBool]
  interval_cases k <;> simp

/-- A SET word is its fields, but for bit 8 (R95). -/
theorem packSet_fields {w : Word} (h : opField w = 3#3) :
    packSet (flField w) (raField w) (immField w) = w &&& ~~~0x0100#16 := by
  rw [packSet, ← h]
  apply BitVec.eq_of_getLsbD_eq
  intro k hk
  simp only [opField, flField, raField, immField, BitVec.getLsbD_append, BitVec.getLsbD_and, BitVec.getLsbD_not,
    BitVec.getLsbD_extractLsb', BitVec.getLsbD_ofBool]
  interval_cases k <;> simp

/-- The extended source of MOV is the flag above the first register field (R94). -/
theorem xsrcField_eq (w : Word) : xsrcField w = BitVec.ofBool (flField w) ++ raField w := by
  conv_lhs => rw [← packWord_fields w, xsrcField_packWord]

/-! ## Fields and the names they stand for -/

@[simp] theorem code_regOfCode (code : BitVec 3) : (regOfCode code).code = code := by revert code; decide

@[simp] theorem regOfCode_code (r : Reg) : regOfCode r.code = r := by cases r <;> rfl

@[simp] theorem bits_condOfBits (c : BitVec 3) : (condOfBits c).bits = c := by revert c; decide

@[simp] theorem condOfBits_bits (c : Cond) : condOfBits c.bits = c := by
  obtain ⟨equal, less, greater⟩ := c
  cases equal <;> cases less <;> cases greater <;> rfl

@[simp] theorem flag_aluDestOfFlag (fl : Bool) : (aluDestOfFlag fl).flag = fl := by cases fl <;> rfl

@[simp] theorem aluDestOfFlag_flag (dst : AluDest) : aluDestOfFlag dst.flag = dst := by cases dst <;> rfl

/-- A code of the table is the code of the operation it selects (43_alu.md R180). -/
theorem codeOf_of_opOf {code : BitVec 6} {op : AluOp} (h : Switch.aluTable.opOf code = some op) :
    Switch.aluTable.codeOf op = some code := by
  have hall : ∀ code : BitVec 6, ∀ op ∈ Switch.aluTable.opOf code, Switch.aluTable.codeOf op = some code := by decide
  exact hall code op h

/-- An operation's code selects the operation (43_alu.md R180). -/
theorem opOf_of_codeOf {code : BitVec 6} {op : AluOp} (h : Switch.aluTable.codeOf op = some code) :
    Switch.aluTable.opOf code = some op := by
  simpa [h] using aluTable_opOf_codeOf op

/-! ## What each opcode decodes to (R105) -/

theorem decode_op0 {w : Word} (h : opField w = 0#3) : decode w = .ok .hlt := by simp [decode, h]
theorem decode_op1 {w : Word} (h : opField w = 1#3) : decode w = .ok .nop := by simp [decode, h]
theorem decode_op2 {w : Word} (h : opField w = 2#3) : decode w = decodeMov w := by simp [decode, h]
theorem decode_op3 {w : Word} (h : opField w = 3#3) : decode w = .ok (decodeSet w) := by simp [decode, h]
theorem decode_op4 {w : Word} (h : opField w = 4#3) : decode w = .ok (decodeCmp w) := by simp [decode, h]
theorem decode_op5 {w : Word} (h : opField w = 5#3) : decode w = decodeAlu w := by simp [decode, h]
theorem decode_op6 {w : Word} (h : opField w = 6#3) : decode w = .ok (decodeMem w) := by simp [decode, h]
theorem decode_op7 {w : Word} (h : opField w = 7#3) : decode w = .ok (decodeIo w) := by simp [decode, h]

theorem code_cases (code : BitVec 3) : code = 0#3 ∨ code = 1#3 ∨ code = 2#3 ∨ code = 3#3 ∨
    code = 4#3 ∨ code = 5#3 ∨ code = 6#3 ∨ code = 7#3 := by
  revert code
  decide

theorem decodeSet_low {w : Word} (h : flField w = false) :
    decodeSet w = .setl (regOfCode (raField w)) (immField w) := by simp [decodeSet, h, Switch.setFlagSelectsHigh]

theorem decodeSet_high {w : Word} (h : flField w = true) :
    decodeSet w = .seth (regOfCode (raField w)) (immField w) := by simp [decodeSet, h, Switch.setFlagSelectsHigh]

theorem decodeCmp_store {w : Word} (h : flField w = false) :
    decodeCmp w = .cmpS (condOfBits (raField w)) (regOfCode (rbField w)) := by simp [decodeCmp, h]

theorem decodeCmp_jump {w : Word} (h : flField w = true) :
    decodeCmp w = .cmpJ (condOfBits (raField w)) (regOfCode (rbField w)) := by simp [decodeCmp, h]

theorem decodeMem_load {w : Word} (h : flField w = false) :
    decodeMem w = .ld (regOfCode (rbField w)) (regOfCode (raField w)) := by
  simp [decodeMem, h, addrReg, dataReg, Switch.memAddrField]

theorem decodeMem_store {w : Word} (h : flField w = true) :
    decodeMem w = .st (regOfCode (raField w)) (regOfCode (rbField w)) := by
  simp [decodeMem, h, addrReg, dataReg, Switch.memAddrField]

theorem decodeIo_in {w : Word} (h : flField w = false) :
    decodeIo w = .ioIn (regOfCode (rbField w)) (regOfCode (raField w)) := by
  simp [decodeIo, h, addrReg, dataReg, Switch.memAddrField]

theorem decodeIo_out {w : Word} (h : flField w = true) :
    decodeIo w = .ioOut (regOfCode (raField w)) (regOfCode (rbField w)) := by
  simp [decodeIo, h, addrReg, dataReg, Switch.memAddrField]

theorem decodeMov_reg {w : Word} (h : flField w = false) :
    decodeMov w = .ok (.mov (regOfCode (rbField w)) (regOfCode (raField w))) := by
  have hall : ∀ ra : BitVec 3, (BitVec.ofBool false ++ ra).toNat < 8 := by decide
  have hlt := hall (raField w)
  rw [decodeMov, xsrcField_eq, h]
  generalize (BitVec.ofBool false ++ raField w).toNat = code at hlt ⊢
  interval_cases code <;> rfl

theorem decodeMov_ip {w : Word} (h : flField w = true) (hra : raField w = 0#3) :
    decodeMov w = .ok (.movIp (regOfCode (rbField w))) := by
  simp [decodeMov, xsrcField_eq, h, hra]

theorem decodeMov_flags {w : Word} (h : flField w = true) (hra : raField w = 1#3) :
    decodeMov w = .ok (.movFlags (regOfCode (rbField w))) := by
  simp [decodeMov, xsrcField_eq, h, hra]

theorem decodeMov_reserved {w : Word} (h : flField w = true) (h0 : raField w ≠ 0#3) (h1 : raField w ≠ 1#3) :
    decodeMov w = .error (.reservedMovSource (xsrcField w)) := by
  have hall : ∀ ra : BitVec 3, ra ≠ 0#3 → ra ≠ 1#3 →
      9 < (BitVec.ofBool true ++ ra).toNat ∧ (BitVec.ofBool true ++ ra).toNat < 16 := by decide
  obtain ⟨hlo, hhi⟩ := hall _ h0 h1
  rw [decodeMov, xsrcField_eq, h]
  generalize (BitVec.ofBool true ++ raField w).toNat = code at hlo hhi
  interval_cases code <;> rfl

theorem decodeAlu_of_opOf {w : Word} {op : AluOp} (h : Switch.aluTable.opOf (aluopField w) = some op) :
    decodeAlu w = .ok (aluInstr op (aluDestOfFlag (flField w)) (regOfCode (raField w)) (regOfCode (rbField w))) := by
  simp [decodeAlu, h]

theorem decodeAlu_reserved {w : Word} (h : Switch.aluTable.opOf (aluopField w) = none) :
    decodeAlu w = .error (.reservedAluCode (aluopField w)) := by
  simp [decodeAlu, h]

/-! ## The bits an instruction does not use -/

/-- An ALU word uses every bit (R97). -/
@[simp] theorem masked_aluInstr (w : Word) (op : AluOp) (dst : AluDest) (ra rb : Reg) :
    w &&& ~~~unusedBits (aluInstr op dst ra rb) = w := by
  have hunused : unusedBits (aluInstr op dst ra rb) = 0#16 := by cases op <;> rfl
  rw [hunused, BitVec.not_zero, BitVec.and_allOnes]

@[simp] theorem and_seven (x : BitVec 3) : x &&& 7#3 = x := by revert x; decide

/-- A mask acts field by field. -/
theorem masked_fields (w m : Word) :
    w &&& m = packWord (opField w &&& m.extractLsb' 13 3) (flField w && m.getLsbD 12)
      (raField w &&& m.extractLsb' 9 3) (rbField w &&& m.extractLsb' 6 3) (aluopField w &&& m.extractLsb' 0 6) := by
  conv_lhs => rw [← packWord_fields w, packWord_masked]

/-- The low six bits carry neither opcode, flag nor register. -/
theorem fields_of_low6 {w v : Word} (h : w &&& ~~~0x003F#16 = v) :
    opField w = opField v ∧ flField w = flField v ∧ raField w = raField v ∧ rbField w = rbField v := by
  rw [← h, masked_fields]
  simp

/-- The low thirteen bits carry no opcode. -/
theorem opField_of_low13 {w v : Word} (h : w &&& ~~~0x1FFF#16 = v) : opField w = opField v := by
  rw [← h, masked_fields]
  simp

/-- Bit 8 of a SET word carries no field of it (R95). -/
theorem fields_of_bit8 {w v : Word} (h : w &&& ~~~0x0100#16 = v) :
    opField w = opField v ∧ flField w = flField v ∧ raField w = raField v ∧ immField w = immField v := by
  have himm : immField (w &&& ~~~0x0100#16) = immField w := by
    apply BitVec.eq_of_getLsbD_eq
    intro k hk
    simp only [immField, BitVec.getLsbD_extractLsb', BitVec.getLsbD_and]
    interval_cases k <;> simp
  rw [← h, himm, masked_fields]
  simp

/-- Memory and port words have their two registers in the two register fields (R98). -/
theorem packMemIo_eq (op : BitVec 3) (fl : Bool) (addr data : Reg) :
    packMemIo op fl addr data = packWord op fl addr.code data.code 0#6 := rfl

/-! ## Decoding forwards: the canonical word is the word with its unused bits cleared -/

/-- A word of opcode, flag and two register fields, its low six bits cleared. -/
theorem packWord_of_fields {w : Word} {op : BitVec 3} {fl : Bool} (hop : opField w = op) (hfl : flField w = fl) :
    packWord op fl (raField w) (rbField w) 0#6 = w &&& ~~~0x003F#16 := by
  rw [masked_fields, hop, hfl]
  simp

theorem encode_of_decodeMov {w : Word} {i : Instr} (hop : opField w = 2#3) (h : decodeMov w = .ok i) :
    encode i = w &&& ~~~unusedBits i := by
  cases hfl : flField w with
  | false =>
    have hw := packWord_of_fields hop hfl
    rw [decodeMov_reg hfl] at h
    cases h
    simpa only [encode, unusedBits, code_regOfCode] using hw
  | true =>
    have hw := packWord_of_fields hop hfl
    by_cases h0 : raField w = 0#3
    · rw [decodeMov_ip hfl h0] at h
      cases h
      simpa only [encode, unusedBits, code_regOfCode, h0] using hw
    · by_cases h1 : raField w = 1#3
      · rw [decodeMov_flags hfl h1] at h
        cases h
        simpa only [encode, unusedBits, code_regOfCode, h1] using hw
      · rw [decodeMov_reserved hfl h0 h1] at h
        cases h

theorem encode_of_decodeAlu {w : Word} {i : Instr} (hop : opField w = 5#3) (h : decodeAlu w = .ok i) :
    encode i = w &&& ~~~unusedBits i := by
  cases hcode : Switch.aluTable.opOf (aluopField w) with
  | none => rw [decodeAlu_reserved hcode] at h; cases h
  | some op =>
    rw [decodeAlu_of_opOf hcode] at h
    cases h
    have hw := packWord_fields w
    rw [hop] at hw
    simpa [encode_aluInstr, packAlu, codeOf_of_opOf hcode] using hw

/-- The canonical word of what a word decodes to is the word with the unused bits cleared (R106, R110). -/
theorem encode_of_decode {w : Word} {i : Instr} (h : decode w = .ok i) : encode i = w &&& ~~~unusedBits i := by
  obtain hop | hop | hop | hop | hop | hop | hop | hop := code_cases (opField w)
  · rw [decode_op0 hop] at h
    cases h
    rw [masked_fields, hop]
    simp [encode, unusedBits]
  · rw [decode_op1 hop] at h
    cases h
    rw [masked_fields, hop]
    simp [encode, unusedBits]
  · exact encode_of_decodeMov hop (decode_op2 hop ▸ h)
  · rw [decode_op3 hop] at h
    cases h
    have hw := packSet_fields hop
    cases hfl : flField w with
    | false => simpa [decodeSet_low hfl, hfl, Switch.setFlagSelectsHigh, encode, unusedBits] using hw
    | true => simpa [decodeSet_high hfl, hfl, Switch.setFlagSelectsHigh, encode, unusedBits] using hw
  · rw [decode_op4 hop] at h
    cases h
    cases hfl : flField w with
    | false => simpa [decodeCmp_store hfl, encode, unusedBits] using packWord_of_fields hop hfl
    | true => simpa [decodeCmp_jump hfl, encode, unusedBits] using packWord_of_fields hop hfl
  · exact encode_of_decodeAlu hop (decode_op5 hop ▸ h)
  · rw [decode_op6 hop] at h
    cases h
    cases hfl : flField w with
    | false => simpa [decodeMem_load hfl, encode, unusedBits, packMemIo_eq] using packWord_of_fields hop hfl
    | true => simpa [decodeMem_store hfl, encode, unusedBits, packMemIo_eq] using packWord_of_fields hop hfl
  · rw [decode_op7 hop] at h
    cases h
    cases hfl : flField w with
    | false => simpa [decodeIo_in hfl, encode, unusedBits, packMemIo_eq] using packWord_of_fields hop hfl
    | true => simpa [decodeIo_out hfl, encode, unusedBits, packMemIo_eq] using packWord_of_fields hop hfl

/-! ## Decoding backwards: the unused bits make no difference -/

/-- A word with the canonical word's used bits decodes as it (R110, R111). -/
theorem decode_of_masked {w : Word} {i : Instr} (h : w &&& ~~~unusedBits i = encode i) : decode w = .ok i := by
  cases hi : i.aluOp with
  | some op =>
    obtain ⟨dst, ra, rb, rfl⟩ := eq_aluInstr_of_aluOp hi
    obtain rfl : w = packAlu op dst ra rb := by simpa [encode_aluInstr] using h
    have hop : opField (packAlu op dst ra rb) = 5#3 := opField_packWord _ _ _ _ _
    have hcode : Switch.aluTable.opOf (aluopField (packAlu op dst ra rb)) = some op := by
      rw [packAlu, aluopField_packWord, aluTable_opOf_codeOf]
    rw [decode_op5 hop, decodeAlu_of_opOf hcode]
    simp [packAlu]
  | none =>
    cases i with
    | hlt => exact decode_op0 (by simpa [encode] using opField_of_low13 h)
    | nop => exact decode_op1 (by simpa [encode] using opField_of_low13 h)
    | mov rd rs =>
      obtain ⟨hop, hfl, hra, hrb⟩ := fields_of_low6 h
      simp only [encode, opField_packWord, flField_packWord, raField_packWord, rbField_packWord] at hop hfl hra hrb
      rw [decode_op2 hop, decodeMov_reg hfl, hra, hrb, regOfCode_code, regOfCode_code]
    | movIp rd =>
      obtain ⟨hop, hfl, hra, hrb⟩ := fields_of_low6 h
      simp only [encode, opField_packWord, flField_packWord, raField_packWord, rbField_packWord] at hop hfl hra hrb
      rw [decode_op2 hop, decodeMov_ip hfl hra, hrb, regOfCode_code]
    | movFlags rd =>
      obtain ⟨hop, hfl, hra, hrb⟩ := fields_of_low6 h
      simp only [encode, opField_packWord, flField_packWord, raField_packWord, rbField_packWord] at hop hfl hra hrb
      rw [decode_op2 hop, decodeMov_flags hfl hra, hrb, regOfCode_code]
    | setl | seth =>
      obtain ⟨hop, hfl, hra, himm⟩ := fields_of_bit8 h
      simp only [encode, opField_packSet, flField_packSet, raField_packSet, immField_packSet] at hop hfl hra himm
      rw [decode_op3 hop]
      simp [decodeSet, hfl, hra, himm, Switch.setFlagSelectsHigh]
    | cmpS | cmpJ =>
      obtain ⟨hop, hfl, hra, hrb⟩ := fields_of_low6 h
      simp only [encode, opField_packWord, flField_packWord, raField_packWord, rbField_packWord] at hop hfl hra hrb
      rw [decode_op4 hop]
      simp [decodeCmp, hfl, hra, hrb]
    | ld | st =>
      obtain ⟨hop, hfl, hra, hrb⟩ := fields_of_low6 h
      simp only [encode, packMemIo_eq, opField_packWord, flField_packWord, raField_packWord, rbField_packWord]
        at hop hfl hra hrb
      rw [decode_op6 hop]
      simp [decodeMem, addrReg, dataReg, Switch.memAddrField, hfl, hra, hrb]
    | ioIn | ioOut =>
      obtain ⟨hop, hfl, hra, hrb⟩ := fields_of_low6 h
      simp only [encode, packMemIo_eq, opField_packWord, flField_packWord, raField_packWord, rbField_packWord]
        at hop hfl hra hrb
      rw [decode_op7 hop]
      simp [decodeIo, addrReg, dataReg, Switch.memAddrField, hfl, hra, hrb]
    | _ => cases hi

/-- A canonical word has zero in every unused bit (R106). -/
theorem encode_masked (i : Instr) : encode i &&& ~~~unusedBits i = encode i := by
  cases hi : i.aluOp with
  | some op =>
    obtain ⟨dst, ra, rb, rfl⟩ := eq_aluInstr_of_aluOp hi
    exact masked_aluInstr _ op dst ra rb
  | none =>
    cases i with
    | hlt | nop | mov | movIp | movFlags | cmpS | cmpJ | ld | st | ioIn | ioOut =>
      simp only [encode, packMemIo_eq, unusedBits]
      simp [packWord_masked]
    | setl | seth =>
      simp only [encode, unusedBits]
      rw [← packSet_fields (opField_packSet _ _ _)]
      simp
    | _ => cases hi

theorem decode_encode (i : Instr) : decode (encode i) = .ok i := decode_of_masked (encode_masked i)

/-! ## The obligations -/

/-- Settles O1: a word decodes to `i` exactly when clearing `i`'s unused bits gives `i`'s canonical word. -/
theorem decodeInvertsEncode : Obligations.DecodeInvertsEncode := by
  unfold Obligations.DecodeInvertsEncode
  refine ⟨fun i _ => decode_encode i, fun w i h => ?_⟩
  rw [encode_of_decode h]
  have hsplit : (w &&& ~~~unusedBits i) ||| (w &&& unusedBits i) = w := by
    rw [← BitVec.and_or_distrib_left, BitVec.or_comm, BitVec.or_not_self, BitVec.and_allOnes]
  constructor
  · intro hw
    rw [← hw, BitVec.and_assoc, BitVec.and_comm (~~~unusedBits i), BitVec.and_not_self]
    exact BitVec.and_zero
  · intro hw
    simpa [hw] using hsplit

/-- Settles O3: two words with the same used bits have the same canonical word. -/
theorem unusedBitsAreIgnored : Obligations.UnusedBitsAreIgnored := by
  unfold Obligations.UnusedBitsAreIgnored
  intro w m i h
  refine decode_of_masked ?_
  rw [encode_of_decode h]
  simp [BitVec.and_or_distrib_right, BitVec.and_assoc]

end Sys2Proof.Proofs
end

section
/-!
SUPPORT. The fields of a word read off its number (spec/30_encoding.md section 4), and which words are reserved (R120).
-/

namespace Sys2Proof.Proofs

open Sys2Proof.Machine

/-! ## Fields by number -/

theorem opField_iff (w : Word) {k : Nat} (hk : k < 8) : opField w = BitVec.ofNat 3 k ↔ w.toNat / 8192 = k := by
  have hw := w.isLt
  rw [BitVec.toNat_eq, opField, BitVec.extractLsb'_toNat, BitVec.toNat_ofNat, Nat.shiftRight_eq_div_pow]
  omega

theorem flField_eq (w : Word) : flField w = decide (w.toNat / 4096 % 2 = 1) := by
  rw [flField, BitVec.getLsbD, Nat.testBit_eq_decide_div_mod_eq]

theorem flField_of_zero {w : Word} (h : w.toNat / 4096 % 2 = 0) : flField w = false := by simp [flField_eq, h]

theorem flField_of_one {w : Word} (h : w.toNat / 4096 % 2 = 1) : flField w = true := by simp [flField_eq, h]

theorem raField_toNat (w : Word) : (raField w).toNat = w.toNat / 512 % 8 := by
  rw [raField, BitVec.extractLsb'_toNat, Nat.shiftRight_eq_div_pow]

theorem raField_of_number {w : Word} {k : Nat} (h : w.toNat / 512 % 8 = k) : raField w = BitVec.ofNat 3 k := by
  apply BitVec.eq_of_toNat_eq
  rw [raField_toNat, BitVec.toNat_ofNat]
  omega

theorem rbField_toNat (w : Word) : (rbField w).toNat = w.toNat / 64 % 8 := by
  rw [rbField, BitVec.extractLsb'_toNat, Nat.shiftRight_eq_div_pow]

theorem aluopField_toNat (w : Word) : (aluopField w).toNat = w.toNat % 64 := by
  rw [aluopField, BitVec.extractLsb'_toNat, Nat.shiftRight_zero]

theorem immField_eq (w : Word) : immField w = BitVec.ofNat 8 w.toNat := by
  apply BitVec.eq_of_toNat_eq
  rw [immField, BitVec.extractLsb'_toNat, Nat.shiftRight_zero, BitVec.toNat_ofNat]

theorem regOfCode_eq (code : BitVec 3) : regOfCode code = regNumbered code.toNat := by revert code; decide

theorem regOfCode_raField (w : Word) : regOfCode (raField w) = regNumbered (w.toNat / 512 % 8) := by
  rw [regOfCode_eq, raField_toNat]

theorem regOfCode_rbField (w : Word) : regOfCode (rbField w) = regNumbered (w.toNat / 64 % 8) := by
  rw [regOfCode_eq, rbField_toNat]

/-- The condition's flags `equal`, `less`, `greater` stand in bits 11, 10 and 9 (R102). -/
theorem condOfBits_raField (w : Word) :
    condOfBits (raField w) = ⟨decide (w.toNat / 2048 % 2 = 1), decide (w.toNat / 1024 % 2 = 1),
      decide (w.toNat / 512 % 2 = 1)⟩ := by
  have hbit : ∀ k, k < 3 → (raField w).getLsbD k = decide (w.toNat / 2 ^ (9 + k) % 2 = 1) := by
    intro k hk
    rw [← Nat.testBit_eq_decide_div_mod_eq, ← BitVec.getLsbD]
    simp [raField, hk]
  simp only [condOfBits, Switch.condBitOrder, hbit 2 (by decide), hbit 1 (by decide), hbit 0 (by decide)]
  norm_num

/-- The default table as printed, by number (43_alu.md R183). -/
theorem opOf_printed : ∀ row ∈ aluCodesPrinted, Switch.aluTable.opOf (BitVec.ofNat 6 row.1) = some row.2 := by decide

theorem opOf_eq_none_iff (code : BitVec 6) :
    Switch.aluTable.opOf code = none ↔ ∀ row ∈ aluCodesPrinted, code.toNat ≠ row.1 := by
  revert code
  decide

theorem aluopField_of_number {w : Word} {k : Nat} (h : w.toNat % 64 = k) : aluopField w = BitVec.ofNat 6 k := by
  apply BitVec.eq_of_toNat_eq
  rw [aluopField_toNat, BitVec.toNat_ofNat]
  omega

/-! ## Reserved words -/

theorem decodeMov_error_iff (w : Word) : (∃ e, decodeMov w = .error e) ↔ 10 ≤ w.toNat / 512 % 16 := by
  have hfl := flField_eq w
  have hra := raField_toNat w
  by_cases hn : w.toNat / 4096 % 2 = 1
  · rw [decide_eq_true hn] at hfl
    by_cases h0 : raField w = 0#3
    · simp only [h0, BitVec.toNat_ofNat] at hra
      simp only [decodeMov_ip hfl h0, reduceCtorEq, exists_false, false_iff]
      omega
    · by_cases h1 : raField w = 1#3
      · simp only [h1, BitVec.toNat_ofNat] at hra
        simp only [decodeMov_flags hfl h1, reduceCtorEq, exists_false, false_iff]
        omega
      · have hsrc : 10 ≤ w.toNat / 512 % 16 := by
          have := mt (raField_of_number (k := 0)) h0
          have := mt (raField_of_number (k := 1)) h1
          omega
        simp [decodeMov_reserved hfl h0 h1, hsrc]
  · rw [decide_eq_false hn] at hfl
    simp only [decodeMov_reg hfl, reduceCtorEq, exists_false, false_iff]
    omega

theorem decodeAlu_error_iff (w : Word) :
    (∃ e, decodeAlu w = .error e) ↔ ∀ row ∈ aluCodesPrinted, w.toNat % 64 ≠ row.1 := by
  rw [← aluopField_toNat, ← opOf_eq_none_iff]
  cases hcode : Switch.aluTable.opOf (aluopField w) with
  | none => simp [decodeAlu_reserved hcode]
  | some op => simp [decodeAlu_of_opOf hcode]

/-- Only MOV and ALU words are reserved (R120). -/
theorem decode_error_iff (w : Word) : (∃ e, decode w = .error e) ↔ ReservedNumber w.toNat := by
  unfold ReservedNumber
  rw [← opField_iff w (k := 2) (by decide), ← opField_iff w (k := 5) (by decide), ← decodeMov_error_iff,
    ← decodeAlu_error_iff]
  obtain hop | hop | hop | hop | hop | hop | hop | hop := code_cases (opField w)
  · simp [decode_op0 hop, hop]
  · simp [decode_op1 hop, hop]
  · simp [decode_op2 hop, hop]
  · simp [decode_op3 hop, hop]
  · simp [decode_op4 hop, hop]
  · simp [decode_op5 hop, hop]
  · simp [decode_op6 hop, hop]
  · simp [decode_op7 hop, hop]

theorem decode_ok_of_not_reserved {w : Word} (h : ¬ReservedNumber w.toNat) : ∃ i, decode w = .ok i := by
  cases hw : decode w with
  | ok i => exact ⟨i, rfl⟩
  | error e => exact absurd ((decode_error_iff w).mp ⟨e, hw⟩) h

/-! ## The obligations -/

/-- Settles O2: each field of a word is a quotient and remainder of its number. -/
theorem decodeFollowsFieldProcedure : Obligations.DecodeFollowsFieldProcedure := by
  unfold Obligations.DecodeFollowsFieldProcedure
  intro w
  have hop {k : Nat} (hk : k < 8) (h : w.toNat / 8192 = k) : opField w = BitVec.ofNat 3 k := (opField_iff w hk).mpr h
  refine ⟨fun h => decode_op0 (hop (by decide) h), fun h => decode_op1 (hop (by decide) h), fun h hx => ?_,
    fun h hx => ?_, fun h hx => ?_, fun h hfl => ?_, fun h hfl => ?_, fun h hfl => ?_, fun h hfl => ?_,
    fun row hrow h hcode => ?_, fun h hfl => ?_, fun h hfl => ?_, fun h hfl => ?_, fun h hfl => ?_,
    (decode_error_iff w).symm⟩
  · have hfl : flField w = false := flField_of_zero (by omega)
    rw [decode_op2 (hop (by decide) h), decodeMov_reg hfl, regOfCode_raField, regOfCode_rbField]
  · have hfl : flField w = true := flField_of_one (by omega)
    have hra : raField w = 0#3 := raField_of_number (by omega)
    rw [decode_op2 (hop (by decide) h), decodeMov_ip hfl hra, regOfCode_rbField]
  · have hfl : flField w = true := flField_of_one (by omega)
    have hra : raField w = 1#3 := raField_of_number (by omega)
    rw [decode_op2 (hop (by decide) h), decodeMov_flags hfl hra, regOfCode_rbField]
  · rw [decode_op3 (hop (by decide) h), decodeSet_low (flField_of_zero hfl), regOfCode_raField, immField_eq]
  · rw [decode_op3 (hop (by decide) h), decodeSet_high (flField_of_one hfl), regOfCode_raField, immField_eq]
  · rw [decode_op4 (hop (by decide) h), decodeCmp_store (flField_of_zero hfl), condOfBits_raField, regOfCode_rbField]
  · rw [decode_op4 (hop (by decide) h), decodeCmp_jump (flField_of_one hfl), condOfBits_raField, regOfCode_rbField]
  · have hopOf := opOf_printed row hrow
    rw [← aluopField_of_number hcode] at hopOf
    rw [decode_op5 (hop (by decide) h), decodeAlu_of_opOf hopOf, flField_eq, regOfCode_raField, regOfCode_rbField]
    simp [aluDestOfFlag, Switch.aluDestFlagQ]
  · rw [decode_op6 (hop (by decide) h), decodeMem_load (flField_of_zero hfl), regOfCode_raField, regOfCode_rbField]
  · rw [decode_op6 (hop (by decide) h), decodeMem_store (flField_of_one hfl), regOfCode_raField, regOfCode_rbField]
  · rw [decode_op7 (hop (by decide) h), decodeIo_in (flField_of_zero hfl), regOfCode_raField, regOfCode_rbField]
  · rw [decode_op7 (hop (by decide) h), decodeIo_out (flField_of_one hfl), regOfCode_raField, regOfCode_rbField]

/-- Settles O4: the words are closed, so decoding them is evaluation. -/
theorem specWordsDecode : Obligations.SpecWordsDecode := by
  unfold Obligations.SpecWordsDecode
  decide

end Sys2Proof.Proofs
end

section
/-!
SUPPORT. What the instructions outside the ALU do and leave unchanged, how every instruction ends, and the step as the
instruction at `pc` (spec/40_hlt_nop.md to spec/44_mem_io.md, spec/10_state.md R26 to R33).
-/

namespace Sys2Proof.Proofs

open Sys2Proof.Machine

/-! ## Frames -/

theorem keepsMemory_of_mem {s t : State} (h : t.mem = s.mem) : KeepsMemory s t := by
  intro a
  rw [State.memRead, State.memRead, h]

/-- An update of the flags, `pc` and `halted` alone. -/
theorem registerFrame_control (s : State) (pc : Word) (f : Flags) (halted : Bool) :
    RegisterFrame [] s { s with pc := pc, flags := f, halted := halted } :=
  ⟨fun _ _ => rfl, fun _ => rfl, rfl, ⟨rfl, rfl, rfl⟩, ⟨rfl, rfl, rfl⟩, rfl⟩

theorem keepsRegs_setReg (s : State) (r : Reg) (v : Word) : KeepsRegs [r] s (s.setReg r v) :=
  fun _ hr => reg_setReg_other s v (List.ne_of_not_mem_cons hr)

/-- An update of one register and of the flags, `pc` and `halted`. -/
theorem registerFrame_setReg (s : State) (r : Reg) (v pc : Word) (f : Flags) (halted : Bool) :
    RegisterFrame [r] s { s.setReg r v with pc := pc, flags := f, halted := halted } :=
  ⟨keepsRegs_setReg s r v, fun _ => rfl, rfl, ⟨rfl, rfl, rfl⟩, ⟨rfl, rfl, rfl⟩, rfl⟩

/-- The instructions that write one register with a value and advance. -/
theorem completes_setReg {i : Instr} {s : State} {r : Reg} {v : Word} {post : Word → Prop}
    (h : exec i s = .next (s.setReg r v).advance) (hv : post v) :
    Completes i s (fun t => post (t.reg r) ∧ t.flags = s.flags ∧ Advanced s t ∧ RegisterFrame [r] s t) := by
  refine ⟨_, h, ?_, rfl, ⟨rfl, rfl⟩, registerFrame_setReg s r v (s.pc + 1) s.flags false⟩
  rwa [reg_advance, reg_setReg_same]

/-! ## Values written to registers -/

theorem flagsWord_toNat (f : Flags) : (flagsWord f).toNat = 4 * f.z.toNat + 2 * f.n.toNat + f.v.toNat := by
  obtain ⟨z, n, v⟩ := f
  cases z <;> cases n <;> cases v <;> rfl

theorem append_bytes_toNat (high low : BitVec 8) : (high ++ low).toNat = high.toNat * 256 + low.toNat := by
  rw [BitVec.toNat_append, ← Nat.shiftLeft_add_eq_or_of_lt low.isLt, Nat.shiftLeft_eq]

theorem setLowByte_toNat (old : Word) (imm : BitVec 8) :
    (setLowByte old imm).toNat = old.toNat / 256 * 256 + imm.toNat := by
  have hold := old.isLt
  rw [setLowByte, Switch.setKeepsOtherByte, if_pos rfl, append_bytes_toNat, BitVec.extractLsb'_toNat,
    Nat.shiftRight_eq_div_pow]
  omega

theorem setHighByte_toNat (old : Word) (imm : BitVec 8) :
    (setHighByte old imm).toNat = imm.toNat * 256 + old.toNat % 256 := by
  rw [setHighByte, Switch.setKeepsOtherByte, if_pos rfl, append_bytes_toNat, BitVec.extractLsb'_toNat,
    Nat.shiftRight_zero]

/-- The outcome bit a condition selects: equal when Z, else less when N and V differ, else greater (R163). -/
theorem condTrue_eq (c : Cond) (f : Flags) :
    condTrue c f = if f.z then c.equal else if f.n = f.v then c.greater else c.less := by
  obtain ⟨z, n, v⟩ := f
  cases z <;> cases n <;> cases v <;> simp [condTrue, Flags.equal, Flags.less, Flags.greater]

theorem exec_cmpJ_of_true {c : Cond} {s : State} (h : condTrue c s.flags = true) (rt : Reg) :
    exec (.cmpJ c rt) s = .next (s.goto (s.reg rt)) := by simp [exec, execCmpJ, h]

theorem exec_cmpJ_of_false {c : Cond} {s : State} (h : condTrue c s.flags = false) (rt : Reg) :
    exec (.cmpJ c rt) s = .next s.advance := by simp [exec, execCmpJ, h]

/-! ## How instructions end -/

/-- HLT raises `halted`; a taken jump goes to its register's value; every other instruction advances (R27, R28, R33). -/
theorem completes_ending (i : Instr) (s : State) : Completes i s (fun t =>
    (i = .hlt ∧ t.halted = true ∧ t.pc = s.pc + 1) ∨
    (∃ c rt, i = .cmpJ c rt ∧ condTrue c s.flags = true ∧ t.pc = s.reg rt ∧ t.halted = false) ∨
    (i ≠ .hlt ∧ (∀ c rt, i = .cmpJ c rt → condTrue c s.flags = false) ∧ Advanced s t)) := by
  cases hi : i.aluOp with
  | some op =>
    obtain ⟨dst, ra, rb, rfl⟩ := eq_aluInstr_of_aluOp hi
    have hhlt : aluInstr op dst ra rb ≠ .hlt := by cases op <;> simp [aluInstr]
    have hjump : ∀ c rt, aluInstr op dst ra rb ≠ .cmpJ c rt := by cases op <;> simp [aluInstr]
    exact ⟨_, exec_aluInstr op dst ra rb s, .inr (.inr ⟨hhlt, fun c rt h => absurd h (hjump c rt), rfl, rfl⟩)⟩
  | none =>
    cases i with
    | hlt => exact ⟨_, rfl, .inl ⟨rfl, rfl, rfl⟩⟩
    | cmpJ c rt =>
      cases hc : condTrue c s.flags with
      | true => exact ⟨_, exec_cmpJ_of_true hc rt, .inr (.inl ⟨c, rt, rfl, hc, rfl, rfl⟩)⟩
      | false =>
        refine ⟨_, exec_cmpJ_of_false hc rt, .inr (.inr ⟨by simp, ?_, rfl, rfl⟩)⟩
        rintro c' rt' ⟨⟩
        exact hc
    | nop | mov | movIp | movFlags | setl | seth | cmpS | ld | st | ioIn | ioOut =>
      exact ⟨_, rfl, .inr (.inr ⟨by simp, by simp, rfl, rfl⟩)⟩
    | _ => cases hi

/-! ## What instructions do to memory and ports -/

/-- ST writes one word of memory and OUT one port's output; no other instruction reaches either, and none the input sides or
the hidden state. -/
theorem completes_stores (i : Instr) (s : State) : Completes i s (fun t =>
    t.input = s.input ∧ KeepsHidden s t ∧
    ((t.mem = s.mem ∧ KeepsOutput s t) ∨
     (∃ rx rs, i = .st rx rs ∧ t.mem = s.mem.put (s.reg rx).toNat (s.reg rs) ∧ KeepsOutput s t) ∨
     (∃ rx rs, i = .ioOut rx rs ∧ t.mem = s.mem ∧ t.out = s.out.put (s.reg rx).toNat (s.reg rs) ∧
       t.outPending = s.outPending.put (s.reg rx).toNat (s.reg rs) ∧
       t.outTrace = s.outTrace ++ [(s.reg rx, s.reg rs)]))) := by
  cases hi : i.aluOp with
  | some op =>
    obtain ⟨dst, ra, rb, rfl⟩ := eq_aluInstr_of_aluOp hi
    exact ⟨_, exec_aluInstr op dst ra rb s, rfl, ⟨rfl, rfl, rfl⟩, .inl ⟨rfl, rfl, rfl, rfl⟩⟩
  | none =>
    cases i with
    | st rx rs => exact ⟨_, rfl, rfl, ⟨rfl, rfl, rfl⟩, .inr (.inl ⟨rx, rs, rfl, rfl, rfl, rfl, rfl⟩)⟩
    | ioOut rx rs =>
      exact ⟨_, rfl, rfl, ⟨rfl, rfl, rfl⟩, .inr (.inr ⟨rx, rs, rfl, rfl, ioWrite_out s _ _, rfl, rfl⟩)⟩
    | cmpJ c rt =>
      refine ⟨_, rfl, ?_⟩
      split <;> exact ⟨rfl, ⟨rfl, rfl, rfl⟩, .inl ⟨rfl, rfl, rfl, rfl⟩⟩
    | hlt | nop | mov | movIp | movFlags | setl | seth | cmpS | ld | ioIn =>
      exact ⟨_, rfl, rfl, ⟨rfl, rfl, rfl⟩, .inl ⟨rfl, rfl, rfl, rfl⟩⟩
    | _ => cases hi

/-! ## The step -/

/-- A step from phase Fetch is the Execute pulse of the word at `pc`. -/
theorem step_of_fetch {s : State} (hp : s.phase = .fetch) :
    step s = endExecute (executeWord (s.memRead s.pc) (fetchPulse s)) := by
  simp [step, runInstruction, hp, executePulse]

theorem step_of_decode {s u : State} {i : Instr} (hp : s.phase = .fetch) (hi : decode (s.memRead s.pc) = .ok i)
    (hu : exec i (fetchPulse s) = .next u) : step s = .next (backToFetch u) := by
  rw [step_of_fetch hp, executeWord, hi]
  simp [hu, endExecute]

theorem step_of_reserved {s : State} {e : DecodeError} (hp : s.phase = .fetch) (he : decode (s.memRead s.pc) = .error e) :
    step s = .fault (.decodeFault (s.memRead s.pc) s.pc) := by
  rw [step_of_fetch hp, executeWord, he]
  rfl

/-- No instruction looks at or writes the next-instruction register and the phase. -/
theorem completes_carrying_sequencing (i : Instr) (s : State) (w : Word) (p : Phase) :
    Completes i s (fun t => exec i { s with ir := w, phase := p } = .next { t with ir := w, phase := p }) := by
  cases hi : i.aluOp with
  | some op =>
    obtain ⟨dst, ra, rb, rfl⟩ := eq_aluInstr_of_aluOp hi
    exact ⟨_, exec_aluInstr op dst ra rb s, exec_aluInstr op dst ra rb _⟩
  | none =>
    cases i with
    | hlt | nop | mov | movIp | movFlags | setl | seth | cmpS | ld | st | ioIn | ioOut => exact ⟨_, rfl, rfl⟩
    | cmpJ c rt =>
      cases hc : condTrue c s.flags with
      | true => exact ⟨_, exec_cmpJ_of_true hc rt, exec_cmpJ_of_true (s := { s with ir := w, phase := p }) hc rt⟩
      | false => exact ⟨_, exec_cmpJ_of_false hc rt, exec_cmpJ_of_false (s := { s with ir := w, phase := p }) hc rt⟩
    | _ => cases hi

/-! ## The obligations on single instructions -/

/-- Settles O7. -/
theorem everyInstructionCompletes : Obligations.EveryInstructionCompletes := by
  unfold Obligations.EveryInstructionCompletes
  intro i s
  obtain ⟨t, ht, -⟩ := completes_ending i s
  exact ⟨t, ht⟩

/-- Settles O8: both write `pc` and `halted` alone. -/
theorem hltHaltsAndNopAdvances : Obligations.HltHaltsAndNopAdvances := by
  unfold Obligations.HltHaltsAndNopAdvances
  intro s
  exact ⟨⟨s.halt, rfl, rfl, rfl, rfl, registerFrame_control s (s.pc + 1) s.flags true⟩,
    ⟨s.advance, rfl, ⟨rfl, rfl⟩, rfl, registerFrame_control s (s.pc + 1) s.flags false⟩⟩

/-- Settles O9: only HLT ends by raising the flag. -/
theorem haltedTellsWhetherLastWasHlt : Obligations.HaltedTellsWhetherLastWasHlt := by
  unfold Obligations.HaltedTellsWhetherLastWasHlt
  intro i s t ht
  obtain ⟨rfl, hhalted, -⟩ | ⟨c, rt, rfl, -, -, hhalted⟩ | ⟨hne, -, -, hhalted⟩ :=
    post_of_completes (completes_ending i s) ht
  · simp [hhalted]
  · simp [hhalted]
  · simp [hhalted, hne]

/-- Settles O10: the three ways an instruction ends; adding one wraps at 65536. -/
theorem programCounterAdvancesOrJumps : Obligations.ProgramCounterAdvancesOrJumps := by
  unfold Obligations.ProgramCounterAdvancesOrJumps
  intro i s t ht
  have hwrap : (s.pc + 1).toNat = (s.pc.toNat + 1) % 65536 := by rw [BitVec.toNat_add]; rfl
  obtain ⟨rfl, -, hpc⟩ | ⟨c, rt, rfl, hc, hpc, -⟩ | ⟨-, hjump, hpc, -⟩ := post_of_completes (completes_ending i s) ht
  · exact .inl ⟨hpc ▸ hwrap, by simp⟩
  · exact .inr ⟨c, rt, rfl, hc, hpc⟩
  · exact .inl ⟨hpc ▸ hwrap, hjump⟩

/-- Settles O11. -/
theorem movCopiesRegister : Obligations.MovCopiesRegister := by
  unfold Obligations.MovCopiesRegister
  intro rd rs s
  exact completes_setReg (post := (· = s.reg rs)) rfl rfl

/-- Settles O12: the offset of IP is 0, and the flags' word has Z, N and V in bits 2, 1 and 0. -/
theorem movReadsPseudoRegisters : Obligations.MovReadsPseudoRegisters := by
  unfold Obligations.MovReadsPseudoRegisters
  intro rd s
  exact ⟨completes_setReg (post := (· = s.pc)) rfl (BitVec.add_zero s.pc),
    completes_setReg (post := (BitVec.toNat · = _)) rfl (flagsWord_toNat s.flags)⟩

/-- Settles O13. -/
theorem setReplacesOneByte : Obligations.SetReplacesOneByte := by
  unfold Obligations.SetReplacesOneByte
  intro rd imm s
  exact ⟨completes_setReg (post := (BitVec.toNat · = _)) rfl (setLowByte_toNat (s.reg rd) imm),
    completes_setReg (post := (BitVec.toNat · = _)) rfl (setHighByte_toNat (s.reg rd) imm)⟩

/-- Settles O14. -/
theorem cmpStoresCondition : Obligations.CmpStoresCondition := by
  unfold Obligations.CmpStoresCondition
  intro c rd s
  rw [← condTrue_eq]
  exact completes_setReg (post := (· = boolWord (condTrue c s.flags))) rfl rfl

/-- Settles O15. -/
theorem cmpJumpsOnCondition : Obligations.CmpJumpsOnCondition := by
  unfold Obligations.CmpJumpsOnCondition
  intro c rt s
  rw [← condTrue_eq]
  cases hc : condTrue c s.flags with
  | true => exact ⟨_, exec_cmpJ_of_true hc rt, rfl, rfl, rfl, registerFrame_control s _ s.flags false⟩
  | false => exact ⟨_, exec_cmpJ_of_false hc rt, rfl, rfl, rfl, registerFrame_control s _ s.flags false⟩

/-- Settles O30. -/
theorem loadReadsWord : Obligations.LoadReadsWord := by
  unfold Obligations.LoadReadsWord
  intro rd rx s
  exact completes_setReg (post := (· = s.memRead (s.reg rx))) rfl rfl

/-- Settles O31: read after write in the memory. -/
theorem storeWritesOneWord : Obligations.StoreWritesOneWord := by
  unfold Obligations.StoreWritesOneWord
  intro rx rs s
  have hread := memRead_memWrite s (s.reg rx)
  exact ⟨_, rfl, (hread _ _).trans (if_pos rfl), fun a ha => (hread a _).trans (if_neg (Ne.symm ha)), rfl, ⟨rfl, rfl⟩,
    fun _ _ => rfl, rfl, ⟨rfl, rfl, rfl⟩, ⟨rfl, rfl, rfl⟩, rfl⟩

/-- Settles O33: the port's cell where it is listed, else the free value. -/
theorem inReadsInputSide : Obligations.InReadsInputSide := by
  unfold Obligations.InReadsInputSide
  intro rd rx s
  have hreg : (s.drawn.setReg rd (s.ioRead (s.reg rx))).advance.reg rd = s.ioRead (s.reg rx) := by
    rw [reg_advance, reg_setReg_same]
  refine ⟨_, rfl, fun v hv => ?_, fun hn => ?_, rfl, ⟨rfl, rfl⟩, keepsRegs_setReg s rd _, fun _ => rfl, rfl,
    ⟨rfl, rfl, rfl⟩, ⟨rfl, rfl, rfl⟩⟩
  · rw [hreg, State.ioRead, hv, Option.getD_some]
  · rw [hreg, State.ioRead, hn, Option.getD_none]

/-- Settles O34: read after write in the committed outputs. -/
theorem outCommitsOutput : Obligations.OutCommitsOutput := by
  unfold Obligations.OutCommitsOutput
  intro rx rs s
  have hread := readOutput_ioWrite s (s.reg rx)
  exact ⟨_, rfl, (hread _ _).trans (if_pos rfl), fun p hp => (hread p _).trans (if_neg (Ne.symm hp)), rfl, rfl,
    ⟨rfl, rfl⟩, fun _ _ => rfl, fun _ => rfl, rfl, ⟨rfl, rfl, rfl⟩, rfl⟩

/-- Settles O35: the three ways an instruction leaves memory and ports. -/
theorem onlyStoreAndOutReachMemoryAndPorts : Obligations.OnlyStoreAndOutReachMemoryAndPorts := by
  unfold Obligations.OnlyStoreAndOutReachMemoryAndPorts
  intro i s t ht
  obtain ⟨hinput, hhidden, hstores⟩ := post_of_completes (completes_stores i s) ht
  obtain ⟨hmem, hout⟩ | ⟨rx, rs, rfl, -, hout⟩ | ⟨rx, rs, rfl, hmem, -⟩ := hstores
  · exact ⟨fun _ => keepsMemory_of_mem hmem, fun _ => hout, hinput, hhidden⟩
  · exact ⟨fun h => absurd rfl (h rx rs), fun _ => hout, hinput, hhidden⟩
  · exact ⟨fun _ => keepsMemory_of_mem hmem, fun h => absurd rfl (h rx rs), hinput, hhidden⟩

/-! ## The obligations on steps -/

/-- Settles O5: a word is reserved exactly when it decodes to no instruction, and every instruction completes. -/
theorem reservedWordsFault : Obligations.ReservedWordsFault := by
  unfold Obligations.ReservedWordsFault
  intro s hp
  constructor
  · intro hres
    obtain ⟨e, he⟩ := (decode_error_iff _).mpr hres
    exact step_of_reserved hp he
  · intro hres
    obtain ⟨i, hi⟩ := decode_ok_of_not_reserved hres
    obtain ⟨u, hu, -⟩ := completes_ending i (fetchPulse s)
    exact ⟨_, step_of_decode hp hi hu⟩

/-- Settles O6: the Fetch pulse's two writes are carried through the instruction. -/
theorem stepRunsDecodedInstruction : Obligations.StepRunsDecodedInstruction := by
  unfold Obligations.StepRunsDecodedInstruction
  intro s t i hp hi _ ht
  exact step_of_decode hp hi
    (post_of_completes (completes_carrying_sequencing i s (s.memRead s.pc) .execute) ht)

/-- Settles O32: the step of a store is the store with the word in the next-instruction register. -/
theorem storedWordIsFetchedNext : Obligations.StoredWordIsFetchedNext := by
  unfold Obligations.StoredWordIsFetchedNext
  intro s rx rs hp hi
  have hread (a : Word) (ha : s.reg rx = a) : ((fetchPulse s).memWrite (s.reg rx) (s.reg rs)).memRead a = s.reg rs := by
    rw [memRead_memWrite, if_pos ha.symm]
  exact ⟨_, step_of_decode hp hi rfl, rfl, rfl, fun h => hread _ h, fun h => ⟨rfl, hread _ h⟩⟩

/-! ## The invariant -/

/-- A record extended by one output: the port written last holds the new value. -/
theorem lastWritten_append (trace : List (Word × Word)) (p q v : Word) :
    lastWritten (trace ++ [(p, v)]) q = if p = q then some v else lastWritten trace q := by
  simp [lastWritten]

/-- What every instruction keeps of the invariant: the phase is the Execute pulse's to set. -/
theorem inv_of_exec {i : Instr} {s t : State} (hs : s.Inv) (ht : exec i s = .next t) : t.Inv := by
  obtain ⟨hinput, ⟨-, hphase, -⟩, hstores⟩ := post_of_completes (completes_stores i s) ht
  obtain ⟨hmem, hout, hpending, htrace⟩ | ⟨rx, rs, -, hmem, hout, hpending, htrace⟩ |
    ⟨rx, rs, -, hmem, hout, hpending, htrace⟩ := hstores
  · exact ⟨hmem ▸ hs.mem, hinput ▸ hs.input, hpending ▸ hs.outPending, hout ▸ hs.out, hphase ▸ hs.phase,
      by rw [htrace, hout, hpending]; exact hs.traced⟩
  · exact ⟨hmem ▸ put_word_wf _ _ hs.mem, hinput ▸ hs.input, hpending ▸ hs.outPending, hout ▸ hs.out, hphase ▸ hs.phase,
      by rw [htrace, hout, hpending]; exact hs.traced⟩
  · refine ⟨hmem ▸ hs.mem, hinput ▸ hs.input, hpending ▸ put_word_wf _ _ hs.outPending, hout ▸ put_word_wf _ _ hs.out,
      hphase ▸ hs.phase, fun p v hlast => ?_⟩
    rw [htrace, lastWritten_append] at hlast
    rw [hout, hpending, cell_put, cell_put]
    by_cases hp : s.reg rx = p
    · rw [if_pos hp] at hlast
      cases hlast
      simp [hp]
    · rw [if_neg hp] at hlast
      have hne : p.toNat ≠ (s.reg rx).toNat := fun h => hp (BitVec.eq_of_toNat_eq h).symm
      rw [if_neg hne, if_neg hne]
      exact hs.traced p v hlast

/-- Settles O36: memory and outputs change by one write in step with the record, and no instruction sees the Fetch pulse. -/
theorem stepKeepsInvariant : Obligations.StepKeepsInvariant := by
  unfold Obligations.StepKeepsInvariant
  intro s t hs ht
  obtain ⟨i, u, hi, hu, rfl⟩ := step_next hs.phase ht
  obtain ⟨v, hv, hcarry⟩ := completes_carrying_sequencing i s (s.memRead s.pc) .execute
  obtain rfl : { v with ir := s.memRead s.pc, phase := .execute } = u := Host.Outcome.next.inj (hcarry.symm.trans hu)
  have hinv := inv_of_exec hs hv
  exact ⟨hinv.mem, hinv.input, hinv.outPending, hinv.out, rfl, hinv.traced⟩

/-- Settles O37: nothing is written and nothing recorded. -/
theorem resetHasInvariant : Obligations.ResetHasInvariant := by
  unfold Obligations.ResetHasInvariant
  exact ⟨nil_wf, nil_wf, nil_wf, nil_wf, rfl, by simp [State.reset, lastWritten]⟩

/-- Settles O38. -/
theorem resetStateValues : Obligations.ResetStateValues := by
  unfold Obligations.ResetStateValues
  exact ⟨rfl, rfl, rfl, rfl, rfl⟩

end Sys2Proof.Proofs
end

section
/-!
SUPPORT. The ALU's reference functions on signed integers (spec/43_alu.md R184 to R213), the effect of every ALU
instruction, and the comparison after it (spec/42_cmp.md R162 to R169).
-/

namespace Sys2Proof.Proofs

open Sys2Proof.Machine

/-! ## Signed words -/

theorem signed_range (a : Word) : -32768 ≤ a.signed ∧ a.signed ≤ 32767 := by
  have hlo := BitVec.le_toInt a
  have hhi := BitVec.toInt_lt (x := a)
  norm_num at hlo hhi
  exact ⟨hlo, Int.le_of_lt_add_one hhi⟩

theorem eq_iff_signed {a b : Word} : a = b ↔ a.signed = b.signed := BitVec.toInt_inj.symm

theorem eq_zero_iff_signed (a : Word) : a = 0#16 ↔ a.signed = 0 := eq_iff_signed
theorem eq_least_iff_signed (a : Word) : a = 0x8000#16 ↔ a.signed = -32768 := eq_iff_signed
theorem eq_greatest_iff_signed (a : Word) : a = 0x7FFF#16 ↔ a.signed = 32767 := eq_iff_signed

theorem msb_signed (a : Word) : a.msb = decide (a.signed < 0) := BitVec.msb_eq_toInt

theorem getLsbD_top (a : Word) : a.getLsbD 15 = decide (a.signed < 0) := by
  rw [← msb_signed, BitVec.msb_eq_getLsbD_last]

/-- The reduction of an integer to the signed range, in linear terms. -/
theorem bmod_word (x : Int) : x.bmod 65536 = x - 65536 * ((x + 32768) / 65536) := by
  rw [Int.bmod_def]
  omega

theorem signed_ofInt (x : Int) : Word.signed (BitVec.ofInt 16 x) = x - 65536 * ((x + 32768) / 65536) := by
  rw [← bmod_word]
  exact BitVec.toInt_ofInt x

theorem signed_add (a b : Word) :
    (a + b : Word).signed = a.signed + b.signed - 65536 * ((a.signed + b.signed + 32768) / 65536) := by
  rw [← bmod_word]
  exact BitVec.toInt_add a b

theorem signed_sub (a b : Word) :
    (a - b : Word).signed = a.signed - b.signed - 65536 * ((a.signed - b.signed + 32768) / 65536) := by
  rw [← bmod_word]
  exact BitVec.toInt_sub

theorem signed_not (a : Word) : (~~~a : Word).signed = -a.signed - 1 := by
  have hneg : (~~~a : Word) = 0xFFFF#16 - a := by
    apply BitVec.eq_of_toNat_eq
    have hlt := a.isLt
    rw [BitVec.toNat_not, BitVec.toNat_sub, BitVec.toNat_ofNat]
    omega
  have hrange := signed_range a
  have hones : Word.signed 0xFFFF#16 = -1 := rfl
  rw [hneg, signed_sub, hones]
  omega

theorem outOfSignedRange_iff (x : Int) : outOfSignedRange x = true ↔ x < -32768 ∨ 32767 < x := by
  simp [outOfSignedRange]

/-! ## Arithmetic results -/

/-- An addition-class result is the word of the value modulo `2^16`. -/
theorem arithResult_r_iff {x : Int} {r : Word} :
    (arithResult x).r = r ↔ r.signed = x - 65536 * ((x + 32768) / 65536) := by
  rw [eq_iff_signed, arithResult, signed_ofInt, eq_comm]

theorem arithResult_v_iff (x : Int) : (arithResult x).v = true ↔ x < -32768 ∨ 32767 < x := outOfSignedRange_iff x

theorem not_overflow {x : Int} (h : outOfSignedRange x = false) : (arithResult x).v = true ↔ False := by
  simp [arithResult, h]

theorem arithResult_add (a b : Word) : (arithResult (a.signed + b.signed)).r = a + b :=
  arithResult_r_iff.mpr (signed_add a b)

theorem arithResult_sub (a b : Word) : (arithResult (a.signed - b.signed)).r = a - b :=
  arithResult_r_iff.mpr (signed_sub a b)

theorem arithResult_neg (a : Word) : (arithResult (-a.signed)).r = 0 - a := by
  rw [← arithResult_sub]
  exact congrArg (fun x => (arithResult x).r) (Int.zero_sub a.signed).symm

theorem arithResult_add_one (a : Word) : (arithResult (a.signed + 1)).r = a + 1 := arithResult_add a 1

theorem arithResult_sub_one (a : Word) : (arithResult (a.signed - 1)).r = a - 1 := arithResult_sub a 1

/-- Only the least word has no negation. -/
theorem overflow_neg_iff (a : Word) : (arithResult (-a.signed)).v = true ↔ a = 0x8000#16 := by
  have := signed_range a
  rw [arithResult_v_iff, eq_least_iff_signed]
  omega

theorem overflow_add_one_iff (a : Word) : (arithResult (a.signed + 1)).v = true ↔ a = 0x7FFF#16 := by
  have := signed_range a
  rw [arithResult_v_iff, eq_greatest_iff_signed]
  omega

theorem overflow_sub_one_iff (a : Word) : (arithResult (a.signed - 1)).v = true ↔ a = 0x8000#16 := by
  have := signed_range a
  rw [arithResult_v_iff, eq_least_iff_signed]
  omega

/-- The sign rule of the sum (R203). -/
theorem overflow_add_iff (a b : Word) : (arithResult (a.signed + b.signed)).v = true ↔
    a.getLsbD 15 = b.getLsbD 15 ∧ (a + b).getLsbD 15 ≠ a.getLsbD 15 := by
  have := signed_range a
  have := signed_range b
  simp only [arithResult_v_iff, getLsbD_top, signed_add, ne_eq, decide_eq_decide]
  omega

/-- The sign rule of a difference (R204, R205). -/
theorem overflow_sub_iff (a b : Word) : (arithResult (a.signed - b.signed)).v = true ↔
    a.getLsbD 15 ≠ b.getLsbD 15 ∧ (a - b).getLsbD 15 ≠ a.getLsbD 15 := by
  have := signed_range a
  have := signed_range b
  simp only [arithResult_v_iff, getLsbD_top, signed_sub, ne_eq, decide_eq_decide]
  omega

/-! ## The effect of an ALU instruction -/

/-- An ALU instruction's whole effect, from its reference function's result and overflow (R181, R184). -/
theorem completes_alu (op : AluOp) (dst : AluDest) (ra rb : Reg) {s : State} {r : Word} {v : Prop}
    (hr : (aluReference op (s.reg ra) (s.reg rb)).r = r) (hv : (aluReference op (s.reg ra) (s.reg rb)).v = true ↔ v) :
    Completes (aluInstr op dst ra rb) s (AluEffect dst r v s) := by
  refine ⟨_, exec_aluInstr op dst ra rb s, ?_, ?_, ?_, hv, ⟨rfl, rfl⟩,
    registerFrame_setReg s dst.reg _ (s.pc + 1) _ false⟩
  · rw [reg_aluStep_dest, hr]
  · rw [flags_aluStep, aluFlags_z_iff, hr]
    rfl
  · rw [flags_aluStep, aluFlags_n, hr]

/-- The operations that are not addition-class never overflow (R185). -/
theorem completes_alu_logic (op : AluOp) (dst : AluDest) (ra rb : Reg) {s : State} {r r' : Word}
    (hop : aluReference op (s.reg ra) (s.reg rb) = logicResult r) (hr : r = r') :
    Completes (aluInstr op dst ra rb) s (AluEffect dst r' False s) :=
  completes_alu op dst ra rb (by rw [hop]; exact hr) (by rw [hop]; exact Bool.false_eq_true.to_iff)

theorem not_eq_ofNat (a : Word) : ~~~a = BitVec.ofNat 16 (65535 - a.toNat) := by
  apply BitVec.eq_of_toNat_eq
  rw [BitVec.toNat_not, BitVec.toNat_ofNat]
  omega

theorem shiftLeftOne_eq (a : Word) : shiftLeftOne a = BitVec.ofNat 16 (2 * a.toNat) := by
  apply BitVec.eq_of_toNat_eq
  rw [shiftLeftOne, BitVec.toNat_shiftLeft, BitVec.toNat_ofNat, Nat.shiftLeft_eq, mul_comm]

theorem shiftRightOne_eq (a : Word) : shiftRightOne a = BitVec.ofNat 16 (a.toNat / 2) := by
  have hlt := a.isLt
  apply BitVec.eq_of_toNat_eq
  rw [shiftRightOne, Switch.shiftRightArithmetic, if_neg Bool.false_ne_true, BitVec.toNat_ushiftRight,
    BitVec.toNat_ofNat, Nat.shiftRight_eq_div_pow]
  omega

/-! ## The obligations on results, flags and frames -/

/-- Settles O19: the three values are in the signed range. -/
theorem aluConstants : Obligations.AluConstants := by
  unfold Obligations.AluConstants
  intro dst ra rb s
  exact ⟨completes_alu .zero dst ra rb rfl (not_overflow (by decide)), completes_alu .one dst ra rb rfl (not_overflow (by decide)),
    completes_alu .negOne dst ra rb rfl (not_overflow (by decide))⟩

/-- Settles O20. -/
theorem aluOperandsAndComplements : Obligations.AluOperandsAndComplements := by
  unfold Obligations.AluOperandsAndComplements
  intro dst ra rb s
  exact ⟨completes_alu_logic .a dst ra rb rfl rfl, completes_alu_logic .b dst ra rb rfl rfl,
    completes_alu_logic .notA dst ra rb rfl (not_eq_ofNat _), completes_alu_logic .notB dst ra rb rfl (not_eq_ofNat _)⟩

/-- Settles O21. -/
theorem aluNegations : Obligations.AluNegations := by
  unfold Obligations.AluNegations
  intro dst ra rb s
  exact ⟨completes_alu .negA dst ra rb (arithResult_neg _) (overflow_neg_iff _),
    completes_alu .negB dst ra rb (arithResult_neg _) (overflow_neg_iff _)⟩

/-- Settles O22. -/
theorem aluIncrementsAndDecrements : Obligations.AluIncrementsAndDecrements := by
  unfold Obligations.AluIncrementsAndDecrements
  intro dst ra rb s
  exact ⟨completes_alu .aPlus1 dst ra rb (arithResult_add_one _) (overflow_add_one_iff _),
    completes_alu .bPlus1 dst ra rb (arithResult_add_one _) (overflow_add_one_iff _),
    completes_alu .aMinus1 dst ra rb (arithResult_sub_one _) (overflow_sub_one_iff _),
    completes_alu .bMinus1 dst ra rb (arithResult_sub_one _) (overflow_sub_one_iff _)⟩

/-- Settles O23: B_MINUS_A is A_MINUS_B with the operands' roles exchanged. -/
theorem aluSumAndDifferences : Obligations.AluSumAndDifferences := by
  unfold Obligations.AluSumAndDifferences
  intro dst ra rb s a b
  refine ⟨completes_alu .aPlusB dst ra rb (arithResult_add a b) (overflow_add_iff a b),
    completes_alu .aMinusB dst ra rb (arithResult_sub a b) (overflow_sub_iff a b),
    completes_alu .bMinusA dst ra rb (arithResult_sub b a) ?_⟩
  rw [ne_comm (a := a.getLsbD 15)]
  exact overflow_sub_iff b a

/-- Settles O24. -/
theorem aluBitwise : Obligations.AluBitwise := by
  unfold Obligations.AluBitwise
  intro dst ra rb s
  exact ⟨completes_alu_logic .and dst ra rb rfl rfl, completes_alu_logic .or dst ra rb rfl rfl,
    completes_alu_logic .xor dst ra rb rfl rfl⟩

/-- Settles O25. -/
theorem aluShifts : Obligations.AluShifts := by
  unfold Obligations.AluShifts
  intro dst ra rb s
  exact ⟨completes_alu_logic .shl dst ra rb rfl (shiftLeftOne_eq _),
    completes_alu_logic .shr dst ra rb rfl (shiftRightOne_eq _)⟩

/-! ## Comparison after an ALU instruction -/

/-- Flags that tell the sign of an integer make the conditions test it (R162, R163). -/
theorem condTrue_of_sign {f : Flags} {d : Int} (hz : f.z = decide (d = 0)) (hn : (f.n ^^ f.v) = decide (d < 0)) (c : Cond) :
    condTrue c f = shouldJump c d := by
  rw [condTrue, shouldJump, Flags.equal, Flags.less, Flags.greater, hz, hn]
  obtain hlt | heq | hgt := lt_trichotomy d 0
  · simp [hlt, hlt.ne, not_lt.mpr hlt.le]
  · simp [heq]
  · simp [hgt, hgt.ne', not_lt.mpr hgt.le]

theorem xor_decide (p q : Prop) [Decidable p] [Decidable q] : (decide p ^^ decide q) = decide (¬(p ↔ q)) := by
  by_cases hp : p <;> by_cases hq : q <;> simp [hp, hq]

/-- The flags of an addition-class result tell the sign of the value itself: on overflow V corrects N (R167). -/
theorem condTrue_arith {x : Int} (hlo : -65536 < x) (hhi : x < 65536) (c : Cond) :
    condTrue c (aluFlags (arithResult x)) = shouldJump c x := by
  have hn : (aluFlags (arithResult x)).n = decide (x - 65536 * ((x + 32768) / 65536) < 0) := by
    rw [← signed_ofInt, ← msb_signed]
    rfl
  have hv : (aluFlags (arithResult x)).v = decide (x < -32768 ∨ 32767 < x) := rfl
  apply condTrue_of_sign
  · rw [Bool.eq_iff_iff, aluFlags_z_iff, arithResult_r_iff, decide_eq_true_iff]
    have hzero : Word.signed 0#16 = 0 := rfl
    omega
  · rw [hn, hv, xor_decide]
    exact decide_eq_decide.mpr (by omega)

/-- The flags of any other result tell the sign of the result (R168). -/
theorem condTrue_logic (r : Word) (c : Cond) : condTrue c (aluFlags (logicResult r)) = shouldJump c r.signed := by
  apply condTrue_of_sign
  · rw [Bool.eq_iff_iff, aluFlags_z_iff, decide_eq_true_iff]
    exact eq_zero_iff_signed r
  · rw [← msb_signed]
    exact Bool.xor_false r.msb

theorem completes_cmpS (c : Cond) (r : Reg) (t : State) :
    Completes (.cmpS c r) t (fun u => u.reg r = if condTrue c t.flags then 1 else 0) :=
  ⟨_, rfl, reg_setReg_same t r _⟩

theorem completes_cmpJ (c : Cond) (r : Reg) (t : State) :
    Completes (.cmpJ c r) t (fun u => u.pc = if condTrue c t.flags then t.reg r else t.pc + 1) :=
  ⟨_, rfl, apply_ite State.pc _ _ _⟩

/-- Settles O16: CMP tests the difference before its reduction. -/
theorem signedComparisonIsExact : Obligations.SignedComparisonIsExact := by
  unfold Obligations.SignedComparisonIsExact
  intro dst rx ry s
  have := signed_range (s.reg rx)
  have := signed_range (s.reg ry)
  refine ⟨_, exec_aluInstr .aMinusB dst rx ry s, fun c r => ?_⟩
  have hc : condTrue c (aluStep aluAMinusB dst rx ry s).flags = shouldJump c ((s.reg rx).signed - (s.reg ry).signed) :=
    condTrue_arith (by omega) (by omega) c
  rw [← hc]
  exact ⟨completes_cmpS c r _, completes_cmpJ c r _⟩

theorem aluReference_of_non_addition {op : AluOp} (h : op ∈ [AluOp.a, .b, .notA, .notB, .and, .or, .shl, .shr, .xor])
    (a b : Word) : ∃ r, aluReference op a b = logicResult r := by
  simp only [List.mem_cons, List.not_mem_nil, or_false] at h
  obtain rfl | rfl | rfl | rfl | rfl | rfl | rfl | rfl | rfl := h <;> exact ⟨_, rfl⟩

/-- Settles O17. -/
theorem nonAdditionResultsCompareAsSigned : Obligations.NonAdditionResultsCompareAsSigned := by
  unfold Obligations.NonAdditionResultsCompareAsSigned
  intro op hop dst ra rb s
  obtain ⟨r, hr⟩ := aluReference_of_non_addition hop (s.reg ra) (s.reg rb)
  refine ⟨_, exec_aluInstr op dst ra rb s, ?_⟩
  simp only [flags_aluStep, reg_aluStep_dest, hr]
  exact ⟨rfl, condTrue_logic r⟩

/-- A value of the ALU's range is out of the signed range and 0 modulo `2^16` only at its least. -/
theorem zero_overflow_iff {x : Int} (hlo : -65536 ≤ x) (hhi : x < 65536) :
    ((aluFlags (arithResult x)).z = true ∧ (aluFlags (arithResult x)).v = true) ↔ x = -65536 := by
  have hv : (aluFlags (arithResult x)).v = true ↔ x < -32768 ∨ 32767 < x := arithResult_v_iff x
  have hzero : Word.signed 0#16 = 0 := rfl
  rw [aluFlags_z_iff, arithResult_r_iff, hv]
  omega

/-- Settles O18: of the ALU's values only the sum reaches -65536, from two least operands. -/
theorem zeroWithOverflowOnlyFromTwoMinima : Obligations.ZeroWithOverflowOnlyFromTwoMinima := by
  unfold Obligations.ZeroWithOverflowOnlyFromTwoMinima
  intro op dst ra rb s
  have := signed_range (s.reg ra)
  have := signed_range (s.reg rb)
  refine ⟨_, exec_aluInstr op dst ra rb s, ?_⟩
  simp only [flags_aluStep, eq_least_iff_signed]
  cases op with
  | a | b | notA | notB | and | or | shl | shr | xor =>
    simp [aluReference, aluA, aluB, aluNotA, aluNotB, aluAnd, aluOr, aluShl, aluShr, aluXor, aluFlags, logicResult]
  | aPlusB =>
    rw [aluReference, aluAPlusB, zero_overflow_iff (by omega) (by omega)]
    simp only [true_and]
    omega
  | zero | one | negOne =>
    simp only [aluReference, aluZero, aluOne, aluNegOne]
    rw [zero_overflow_iff (by omega) (by omega)]
    simp
  | negA | negB | aPlus1 | bPlus1 | aMinus1 | bMinus1 | aMinusB | bMinusA =>
    simp only [aluReference, aluNegA, aluNegB, aluAPlus1, aluBPlus1, aluAMinus1, aluBMinus1, aluAMinusB, aluBMinusA]
    rw [zero_overflow_iff (by omega) (by omega)]
    simp only [reduceCtorEq, false_and, iff_false]
    omega

end Sys2Proof.Proofs
end

section
/-!
SUPPORT. Buses and the combinational primitives at every width: the number a bus carries, the adder chain, the zero detector,
the multiplexer and demultiplexer trees (spec/47_gate_level_engine.md R252, R260 to R273).
-/

namespace Sys2Proof.Proofs

open Sys2Proof.Machine

@[simp] theorem xorGate_eq (a b : Bool) : xorGate a b = (a ^^ b) := by cases a <;> cases b <;> rfl

@[simp] theorem xnorGate_eq (a b : Bool) : xnorGate a b = (a == b) := by cases a <;> cases b <;> rfl

/-- Settles O43: four input pairs. -/
theorem gatesFromNand : Obligations.GatesFromNand := by
  unfold Obligations.GatesFromNand
  decide

/-! ## The number a bus carries -/

@[simp] theorem busValue_nil : busValue [] = 0 := rfl

/-- The first wire is the most significant (R252). -/
@[simp] theorem busValue_cons (x : Bool) (b : Bus) : busValue (x :: b) = x.toNat * 2 ^ b.length + busValue b := by
  have hfold : ∀ (b : Bus) (acc : Nat), b.foldl (fun acc x => 2 * acc + x.toNat) acc = acc * 2 ^ b.length + busValue b := by
    intro b
    induction b with
    | nil => simp [busValue]
    | cons y b ih =>
      intro acc
      rw [busValue, List.foldl_cons, List.foldl_cons, ih, ih, List.length_cons, pow_succ]
      ring
  rw [busValue, List.foldl_cons, hfold]
  ring

theorem busValue_lt (b : Bus) : busValue b < 2 ^ b.length := by
  induction b with
  | nil => simp
  | cons x b ih =>
    have hx := x.toNat_le
    rw [busValue_cons, List.length_cons, pow_succ]
    nlinarith

/-- Buses of one width that carry one number are one bus. -/
theorem busValue_inj {a b : Bus} (h : a.length = b.length) : busValue a = busValue b ↔ a = b := by
  refine ⟨fun hv => ?_, fun hab => hab ▸ rfl⟩
  induction a generalizing b with
  | nil => exact (List.length_eq_zero_iff.mp h.symm).symm
  | cons x a ih =>
    cases b with
    | nil => simp at h
    | cons y b =>
      have hlen : a.length = b.length := by simpa using h
      have ha := busValue_lt a
      have hb := busValue_lt b
      rw [busValue_cons, busValue_cons, hlen] at hv
      rw [hlen] at ha
      cases x <;> cases y <;> simp only [Bool.toNat_true, Bool.toNat_false] at hv
      · rw [ih hlen (by omega)]
      · omega
      · omega
      · rw [ih hlen (by omega)]

/-- A bus carries 0 exactly when none of its wires is up. -/
theorem busValue_eq_zero_iff (b : Bus) : busValue b = 0 ↔ ∀ x ∈ b, x = false := by
  induction b with
  | nil => simp
  | cons x b ih => cases x <;> simp [ih]

/-! ## Adders -/

theorem fullAdder_adds (a b carryIn : Bool) :
    (fullAdder a b carryIn).1.toNat + 2 * (fullAdder a b carryIn).2.toNat = a.toNat + b.toNat + carryIn.toNat := by
  cases a <;> cases b <;> cases carryIn <;> rfl

theorem adderChain_cons (carryIn x y : Bool) (a b : Bus) :
    adderChain carryIn (x :: a) (y :: b) =
      ⟨(fullAdder x y (adderChain carryIn a b).carryOut).1 :: (adderChain carryIn a b).sum,
       (adderChain carryIn a b).carryOut, (fullAdder x y (adderChain carryIn a b).carryOut).2⟩ := rfl

theorem adderChain_adds (carryIn : Bool) {a b : Bus} (h : a.length = b.length) :
    busValue (adderChain carryIn a b).sum + (adderChain carryIn a b).carryOut.toNat * 2 ^ a.length =
      busValue a + busValue b + carryIn.toNat := by
  induction a generalizing b with
  | nil =>
    obtain rfl := List.length_eq_zero_iff.mp h.symm
    simp [adderChain]
  | cons x a ih =>
    cases b with
    | nil => simp at h
    | cons y b =>
      have hlen : a.length = b.length := by simpa using h
      have hlow := ih hlen
      have hfull := fullAdder_adds x y (adderChain carryIn a b).carryOut
      rw [adderChain_cons]
      simp only [busValue_cons, adderChain_length carryIn a b hlen, List.length_cons, pow_succ, ← hlen]
      linear_combination hlow + 2 ^ a.length * hfull

/-- Settles O44: by induction along the chain, a full adder at a time; the top adder's carries differ exactly when its sum
bit differs from two equal operand bits. -/
theorem adderChainAdds : Obligations.AdderChainAdds := by
  unfold Obligations.AdderChainAdds
  refine ⟨fun a b carryIn h => ⟨adderChain_length carryIn a b h, adderChain_adds carryIn h⟩, fun x y a b carryIn h => ?_⟩
  refine ⟨adderChain_adds carryIn h, ?_⟩
  rw [adderChain_cons]
  generalize (adderChain carryIn a b).carryOut = carry
  cases x <;> cases y <;> cases carry <;> simp [fullAdder, halfAdder]

/-! ## The zero detector -/

theorem isZeroWire_iff {b : Bus} (hb : b ≠ []) (hlen : b.length ≤ 1) :
    notGate (b.headD false) = true ↔ ∀ x ∈ b, x = false := by
  obtain ⟨x, rfl⟩ := List.length_eq_one_iff.mp (hlen.antisymm (List.length_pos_iff.mpr hb))
  simp

/-- With enough depth the detector sees every wire: each bisection leaves two shorter, nonempty halves. -/
theorem isZeroTree_iff (depth : Nat) {b : Bus} (hb : b ≠ []) (hdepth : b.length ≤ depth + 1) :
    isZeroTree depth b = true ↔ ∀ x ∈ b, x = false := by
  induction depth generalizing b with
  | zero => exact isZeroWire_iff hb hdepth
  | succ depth ih =>
    rw [isZeroTree]
    split
    case isTrue hlen => exact isZeroWire_iff hb hlen
    case isFalse hlen =>
      have hlow : b.take (b.length / 2) ≠ [] := List.ne_nil_of_length_pos (by rw [List.length_take]; omega)
      have hhigh : b.drop (b.length / 2) ≠ [] := List.ne_nil_of_length_pos (by rw [List.length_drop]; omega)
      rw [andGate_eq, Bool.and_eq_true, ih hlow (by rw [List.length_take]; omega),
        ih hhigh (by rw [List.length_drop]; omega), ← List.forall_mem_append, List.take_append_drop]

/-- Settles O45. -/
theorem isZeroDetectsZero : Obligations.IsZeroDetectsZero := by
  unfold Obligations.IsZeroDetectsZero
  intro b hb
  rw [busValue_eq_zero_iff]
  exact isZeroTree_iff b.length hb (Nat.le_succ _)

theorem isZeroGate_eq {b : Bus} (hb : b ≠ []) : isZeroGate b = decide (busValue b = 0) := by
  rw [Bool.eq_iff_iff, isZeroDetectsZero b hb, decide_eq_true_iff]

/-! ## Selection and routing -/

/-- The multiplexer tree: the address's top wire chooses the half, the rest the place in it (R271). -/
theorem muxTree_select {width : Nat} (addr : Bus) {inputs : List Bus} (hcount : inputs.length = 2 ^ addr.length)
    (hwidth : ∀ b ∈ inputs, b.length = width) : some (muxTree addr inputs) = inputs[busValue addr]? := by
  induction addr generalizing inputs with
  | nil =>
    obtain ⟨b, rfl⟩ := List.length_eq_one_iff.mp hcount
    rfl
  | cons sel rest ih =>
    have hhalf : inputs.length / 2 = 2 ^ rest.length := by rw [hcount, List.length_cons, pow_succ]; omega
    have hrest := busValue_lt rest
    rw [List.length_cons, pow_succ] at hcount
    have hlow : (inputs.take (2 ^ rest.length)).length = 2 ^ rest.length := by rw [List.length_take]; omega
    have hhigh : (inputs.drop (2 ^ rest.length)).length = 2 ^ rest.length := by rw [List.length_drop]; omega
    have hwlow : ∀ b ∈ inputs.take (2 ^ rest.length), b.length = width := fun b hb => hwidth b (List.mem_of_mem_take hb)
    have hwhigh : ∀ b ∈ inputs.drop (2 ^ rest.length), b.length = width := fun b hb => hwidth b (List.mem_of_mem_drop hb)
    have hsame : (muxTree rest (inputs.take (2 ^ rest.length))).length =
        (muxTree rest (inputs.drop (2 ^ rest.length))).length := by
      rw [muxTree_length rest _ hlow hwlow, muxTree_length rest _ hhigh hwhigh]
    rw [muxTree, hhalf, busSwitch_eq sel hsame, busValue_cons]
    cases sel with
    | false => simpa [List.getElem?_take_of_lt hrest] using ih hlow hwlow
    | true => simpa [List.getElem?_drop, Nat.add_comm] using ih hhigh hwhigh

theorem dmuxTree_length (addr : Bus) (x : Bool) : (dmuxTree addr x).length = 2 ^ addr.length := by
  induction addr generalizing x with
  | nil => rfl
  | cons sel rest ih => rw [dmuxTree, List.length_append, ih, ih, List.length_cons, pow_succ, Nat.mul_two]

/-- The demultiplexer tree: the input on the addressed line, 0 on the others (R272). -/
theorem dmuxTree_route (addr : Bus) (x : Bool) {k : Nat} (hk : k < 2 ^ addr.length) :
    (dmuxTree addr x)[k]? = some (x && decide (k = busValue addr)) := by
  induction addr generalizing x k with
  | nil =>
    obtain rfl : k = 0 := by simpa using hk
    simp [dmuxTree]
  | cons sel rest ih =>
    have hrest := busValue_lt rest
    rw [List.length_cons, pow_succ] at hk
    rw [dmuxTree, busValue_cons]
    by_cases hlow : k < 2 ^ rest.length
    · rw [List.getElem?_append_left (by rwa [dmuxTree_length]), ih _ hlow]
      cases sel with
      | false => simp
      | true =>
        have hne : k ≠ 2 ^ rest.length + busValue rest := by omega
        simp [hne]
    · rw [List.getElem?_append_right (by rw [dmuxTree_length]; omega), dmuxTree_length, ih _ (by omega)]
      cases sel with
      | false =>
        have hne : k ≠ busValue rest := by omega
        simp [hne]
      | true =>
        have hiff : k - 2 ^ rest.length = busValue rest ↔ k = 2 ^ rest.length + busValue rest := by omega
        simp [hiff]

/-- Settles O46. -/
theorem muxAndDmuxSelect : Obligations.MuxAndDmuxSelect := by
  unfold Obligations.MuxAndDmuxSelect
  exact ⟨fun addr _ _ hcount hwidth => muxTree_select addr hcount hwidth,
    fun addr x => ⟨dmuxTree_length addr x, fun _ hk => dmuxTree_route addr x hk⟩⟩

end Sys2Proof.Proofs
end

section
/-!
SUPPORT. Words on buses: each gate-level operation on the buses of words is the word-level operation (spec/43_alu.md R182,
spec/47_gate_level_engine.md R252, R290 to R294).
-/

namespace Sys2Proof.Proofs

open Sys2Proof.Machine

/-! ## Between buses and words -/

theorem getMsbD_cons_succ {n : Nat} (x : Bool) (w : BitVec n) (k : Nat) :
    (BitVec.cons x w).getMsbD (k + 1) = w.getMsbD k := by
  by_cases hk : k < n
  · have hne : n - 1 - k ≠ n := by omega
    have hsub : n - (k + 1) = n - 1 - k := by omega
    simp [BitVec.getMsbD, BitVec.getLsbD_cons, hk, hne, hsub]
  · simp [BitVec.getMsbD, hk]

theorem busOf_cons {n : Nat} (x : Bool) (w : BitVec n) : busOf (BitVec.cons x w) = x :: busOf w := by
  simp only [busOf, List.range_succ_eq_map, List.map_cons, List.map_map]
  congr 1
  · simp [BitVec.getMsbD, BitVec.getElem_cons]
  · exact List.map_congr_left fun k _ => getMsbD_cons_succ x w k

@[simp] theorem busValue_busOf {n : Nat} (w : BitVec n) : busValue (busOf w) = w.toNat := by
  induction n with
  | zero => simp [busOf, BitVec.eq_nil w]
  | succ n ih =>
    rw [← BitVec.cons_msb_setWidth w, busOf_cons, busValue_cons, ih, busOf_length, BitVec.toNat_cons',
      Nat.shiftLeft_eq]

@[simp] theorem wordOfBus_busOf (w : Word) : wordOfBus (busOf w) = w := by
  rw [wordOfBus, busValue_busOf, BitVec.ofNat_toNat, BitVec.setWidth_eq]

/-- A 16-wire bus is the bus of the word it carries. -/
theorem busOf_wordOfBus {b : Bus} (h : b.length = 16) : busOf (wordOfBus b) = b := by
  have hlt := busValue_lt b
  rw [h] at hlt
  rw [← busValue_inj (by rw [busOf_length, h]), busValue_busOf, wordOfBus, BitVec.toNat_ofNat, Nat.mod_eq_of_lt hlt]

/-- A bus is the bus of a word when it carries the word's number on as many wires. -/
theorem eq_busOf_iff {n : Nat} {b : Bus} {w : BitVec n} (h : b.length = n) : b = busOf w ↔ busValue b = w.toNat := by
  rw [← busValue_busOf w, busValue_inj (h.trans (busOf_length w).symm)]

theorem busOf_getElem {n : Nat} (w : BitVec n) {k : Nat} (hk : k < (busOf w).length) : (busOf w)[k] = w.getMsbD k := by
  simp [busOf]

/-! ## Word operations -/

theorem map_notGate_busOf (a : Word) : (busOf a).map notGate = busOf (~~~a) := by
  refine List.ext_getElem (by simp) fun k hk _ => ?_
  rw [List.length_map, busOf_length] at hk
  simp [busOf_getElem, hk]

theorem zipWith_andGate_busOf (a b : Word) : List.zipWith andGate (busOf a) (busOf b) = busOf (a &&& b) :=
  List.ext_getElem (by simp) fun _ _ _ => by simp [busOf_getElem]

theorem zipWith_xorGate_busOf (a b : Word) : List.zipWith xorGate (busOf a) (busOf b) = busOf (a ^^^ b) :=
  List.ext_getElem (by simp) fun _ _ _ => by simp [busOf_getElem]

theorem zerosLike_busOf (a : Word) : zerosLike (busOf a) = busOf (0 : Word) := by
  rw [zerosLike, List.map_const', busOf_length]
  rfl

theorem busSwitch_busOf {n : Nat} (sel : Bool) (a b : BitVec n) :
    busSwitch sel (busOf a) (busOf b) = busOf (if sel then b else a) := by
  rw [busSwitch_eq sel (by simp), apply_ite busOf]

theorem registerPulse_busOf (we : Bool) (input held : Word) :
    registerPulse we (busOf input) (busOf held) = busOf (if we then input else held) := by
  rw [registerPulse_eq we (by simp), apply_ite busOf]

theorem wordAdder_busOf (a b : Word) : (wordAdder (busOf a) (busOf b)).sum = busOf (a + b) := by
  have hadds := adderChain_adds false (a := busOf a) (b := busOf b) (by simp)
  have hlen := wordAdder_length (a := busOf a) (b := busOf b) (by simp)
  have hlt := busValue_lt (wordAdder (busOf a) (busOf b)).sum
  rw [busOf_length] at hlen
  rw [hlen] at hlt
  simp only [busValue_busOf, busOf_length, Bool.toNat_false] at hadds
  rw [eq_busOf_iff hlen, BitVec.toNat_add, wordAdder]
  rw [wordAdder] at hlt
  omega

theorem isZeroGate_busOf (a : Word) : isZeroGate (busOf a) = decide (a = 0) := by
  rw [isZeroGate_eq (List.ne_nil_of_length_pos (by simp)), busValue_busOf, decide_eq_decide, BitVec.toNat_eq]
  rfl

theorem headD_busOf (a : Word) : (busOf a).headD false = a.msb := rfl

theorem shiftedLeft_busOf (a : Word) : (busOf a).drop 1 ++ [false] = busOf (shiftLeftOne a) := by
  refine List.ext_getElem (by simp) fun k hk hk' => ?_
  rw [busOf_length] at hk'
  rw [List.getElem_append, busOf_getElem]
  split
  case isTrue hlow =>
    rw [List.length_drop, busOf_length] at hlow
    simp [busOf_getElem, shiftLeftOne, BitVec.getMsbD_shiftLeft]
  case isFalse hlow =>
    rw [List.length_drop, busOf_length] at hlow
    obtain rfl : k = 15 := by omega
    simp [shiftLeftOne, BitVec.getMsbD_shiftLeft, BitVec.getMsbD_of_ge]

theorem shiftedRight_busOf (a : Word) :
    andGate Switch.shiftRightArithmetic ((busOf a).headD false) :: (busOf a).dropLast = busOf (shiftRightOne a) := by
  refine List.ext_getElem (by simp) fun k hk hk' => ?_
  rw [busOf_length] at hk'
  rw [busOf_getElem, shiftRightOne, Switch.shiftRightArithmetic, if_neg Bool.false_ne_true]
  cases k with
  | zero => simp
  | succ k => simp [busOf_getElem, BitVec.getMsbD_ushiftRight, hk']

/-! ## The gate ALU on words -/

theorem operandStage_busOf (zero negate : Bool) (a : Word) :
    operandStage zero negate (busOf a) =
      busOf (if negate then ~~~(if zero then 0 else a) else (if zero then 0 else a)) := by
  rw [operandStage, zerosLike_busOf, busSwitch_busOf, map_notGate_busOf, busSwitch_busOf]

/-- The function the two extra control bits select beside the main path (R293). -/
def alternatePath (l : AluLines) (a b : Word) : Word :=
  if l.alt1 then (if l.alt0 then a ^^^ b else shiftRightOne a)
  else (if l.alt0 then shiftLeftOne a else (mainPath l a b).r)

/-- Four buses behind a two-wire address. -/
theorem muxTree_four (s1 s0 : Bool) (a b c d : Word) :
    muxTree [s1, s0] [busOf a, busOf b, busOf c, busOf d] =
      busOf (if s1 then (if s0 then d else c) else (if s0 then b else a)) := by
  have hselect := muxTree_select [s1, s0] (inputs := [busOf a, busOf b, busOf c, busOf d]) (width := 16) rfl (by simp)
  apply Option.some.inj
  rw [hselect]
  cases s1 <;> cases s0 <;> rfl

/-- The gate ALU on the buses of words: its path's result and flags, and the gated overflow of the main path's adder. -/
theorem gateAlu_busOf (l : AluLines) (a b : Word) :
    gateAlu l (busOf a) (busOf b) =
      ⟨busOf (alternatePath l a b), decide (alternatePath l a b = 0), (alternatePath l a b).msb, (mainPath l a b).v⟩ := by
  have hout : (gateAlu l (busOf a) (busOf b)).out = busOf (alternatePath l a b) := by
    simp only [gateAlu, operandStage_busOf, wordAdder_busOf, zipWith_andGate_busOf, busSwitch_busOf, map_notGate_busOf,
      shiftedLeft_busOf, shiftedRight_busOf, zipWith_xorGate_busOf, muxTree_four]
    rfl
  have hovf : (gateAlu l (busOf a) (busOf b)).overflow = (mainPath l a b).v := by
    simp only [gateAlu, operandStage_busOf, wordAdder_busOf, headD_busOf, andGate_eq, xorGate_eq, xnorGate_eq]
    rfl
  have hflags : gateAlu l (busOf a) (busOf b) = ⟨(gateAlu l (busOf a) (busOf b)).out,
    isZeroGate (gateAlu l (busOf a) (busOf b)).out, (gateAlu l (busOf a) (busOf b)).out.headD false,
    (gateAlu l (busOf a) (busOf b)).overflow⟩ := rfl
  rw [hflags, hout, hovf, isZeroGate_busOf, headD_busOf]

/-! ## The main path on integers -/

/-- An operand stage or the output stage on signed values: complementing `x` gives `-x - 1`. -/
def complemented (negate : Bool) (x : Int) : Int := if negate then -x - 1 else x

theorem signed_complement (negate : Bool) (a : Word) :
    (if negate then ~~~a else a).signed = complemented negate a.signed := by
  cases negate with
  | false => rfl
  | true => exact signed_not a

theorem signed_zeroed (zero : Bool) (a : Word) : (if zero then 0 else a).signed = if zero then 0 else a.signed :=
  apply_ite Word.signed _ _ _

/-- The raw adder overflows exactly when the sum of the signed operands is out of range (R186). -/
theorem adderOverflow_eq (a b : Word) : adderOverflow a b (a + b) = outOfSignedRange (a.signed + b.signed) := by
  have hrule := overflow_add_iff a b
  rw [arithResult_v_iff, ← outOfSignedRange_iff] at hrule
  rw [Bool.eq_iff_iff, hrule, adderOverflow, BitVec.msb_eq_getLsbD_last, BitVec.msb_eq_getLsbD_last,
    BitVec.msb_eq_getLsbD_last]
  simp

/-- Complementing keeps the signed range, so the output stage does not touch the overflow. -/
theorem complement_arithResult (negate : Bool) (x : Int) :
    arithResult (complemented negate x) = ⟨if negate then ~~~(arithResult x).r else (arithResult x).r, (arithResult x).v⟩ := by
  cases negate with
  | false => rfl
  | true =>
    have hr : (arithResult (-x - 1)).r = ~~~(arithResult x).r := by
      rw [arithResult_r_iff, signed_not, arithResult, signed_ofInt]
      omega
    have hv : (arithResult (-x - 1)).v = (arithResult x).v := by
      rw [Bool.eq_iff_iff, arithResult_v_iff, arithResult_v_iff]
      omega
    exact AluResult.mk.injEq .. |>.mpr ⟨hr, hv⟩

/-- With `f` raised the main path computes on integers: each operand zeroed, then complemented, and the sum complemented. -/
theorem mainPath_add {l : AluLines} (h : l.f = true) (a b : Word) :
    mainPath l a b = arithResult (complemented l.no (complemented l.na (if l.za then 0 else a.signed) +
      complemented l.nb (if l.zb then 0 else b.signed))) := by
  rw [complement_arithResult, ← signed_zeroed, ← signed_zeroed, ← signed_complement, ← signed_complement,
    arithResult_add, mainPath, h, adderOverflow_eq]
  rfl

/-- Without `f` it is a logic function, and overflow is gated off. -/
theorem mainPath_and {l : AluLines} (h : l.f = false) (a b : Word) :
    mainPath l a b = logicResult
      (let s := (if l.na then ~~~(if l.za then 0 else a) else (if l.za then 0 else a)) &&&
        (if l.nb then ~~~(if l.zb then 0 else b) else (if l.zb then 0 else b))
       if l.no then ~~~s else s) := by
  rw [mainPath, h]
  rfl

end Sys2Proof.Proofs
end

section
/-!
SUPPORT. The operation table against the control lines and the gate ALU (spec/43_alu.md R182, R186, R213).
-/

namespace Sys2Proof.Proofs

open Sys2Proof.Machine

@[simp] theorem and_ones (a : Word) : a &&& 0xFFFF#16 = a := BitVec.and_allOnes

@[simp] theorem ones_and (a : Word) : 0xFFFF#16 &&& a = a := BitVec.allOnes_and

/-- Settles O28: with `f` raised by arithmetic on the signed operands, without it bit by bit. -/
theorem controlLinesComputeTable : Obligations.ControlLinesComputeTable := by
  unfold Obligations.ControlLinesComputeTable
  intro op code hcode hop a b
  cases op with
  | shl | shr | xor => simp at hop
  | a | b | notA | notB | and | or =>
    cases hcode
    rw [mainPath_and rfl]
    simp [aluLines, aluReference, aluA, aluB, aluNotA, aluNotB, aluAnd, aluOr, BitVec.not_and]
  | zero | one | negOne | negA | negB | aPlus1 | bPlus1 | aMinus1 | bMinus1 | aPlusB | aMinusB | bMinusA =>
    cases hcode
    rw [mainPath_add rfl]
    refine congrArg arithResult ?_
    simp [aluLines, complemented] <;> omega

/-- The alternate functions are those of the three operations whose extra bits are not 00 (R293). -/
theorem alternatePath_eq {op : AluOp} {code : BitVec 6} (h : Switch.aluTable.codeOf op = some code) (a b : Word) :
    alternatePath (aluLines code) a b = (aluReference op a b).r ∧
      (mainPath (aluLines code) a b).v = (aluReference op a b).v := by
  have hop := opOf_of_codeOf h
  by_cases halt : op ∈ [AluOp.shl, .shr, .xor]
  · simp only [List.mem_cons, List.not_mem_nil, or_false] at halt
    obtain rfl | rfl | rfl := halt <;> cases h <;> exact ⟨rfl, rfl⟩
  · rw [← controlLinesComputeTable op code h halt a b]
    refine ⟨?_, rfl⟩
    have hmain : altBits (some op) = (false, false) := by
      cases op <;> simp [altBits] at halt ⊢
    simp [alternatePath, aluLines, hop, hmain]

/-- The gate ALU driven by an operation's code, on the buses of two words. -/
theorem gateAlu_reference {op : AluOp} {code : BitVec 6} (h : Switch.aluTable.codeOf op = some code) (a b : Word) :
    gateAlu (aluLines code) (busOf a) (busOf b) =
      ⟨busOf (aluReference op a b).r, (aluFlags (aluReference op a b)).z, (aluFlags (aluReference op a b)).n,
       (aluFlags (aluReference op a b)).v⟩ := by
  obtain ⟨hr, hv⟩ := alternatePath_eq h a b
  rw [gateAlu_busOf, hr, hv]
  rfl

/-- Settles O29. -/
theorem gateAluMatchesReference : Obligations.GateAluMatchesReference := by
  unfold Obligations.GateAluMatchesReference
  intro op code h a b
  simp only [gateAlu_reference h]
  exact ⟨trivial, rfl, aluFlags_n _, rfl⟩

end Sys2Proof.Proofs
end

section
/-!
SUPPORT. The gate CPU's Execute pulse on words: the units of its datapath one by one, the datapath as a function of words,
and each instruction's rule on it (spec/47_gate_level_engine.md R295 to R301).
-/

namespace Sys2Proof.Proofs

open Sys2Proof.Machine

/-! ## Decoder and selections -/

/-- The field slices of an instruction bus (R91, R295). -/
theorem slices_busOf (w : Word) :
    (busOf w).getD 3 false = flField w ∧ ((busOf w).drop 4).take 3 = busOf (raField w) ∧
    ((busOf w).drop 7).take 3 = busOf (rbField w) ∧ (busOf w).drop 10 = busOf (aluopField w) ∧
    (busOf w).drop 8 = busOf (immField w) := by
  simp [busOf, flField, raField, rbField, aluopField, immField, List.range_succ, BitVec.getMsbD]

/-- The demultiplexer on the opcode raises the one line of its number. -/
theorem dmuxTree_busOf_getD {n : Nat} (code : BitVec n) (x : Bool) {k : Nat} (hk : k < 2 ^ n) :
    (dmuxTree (busOf code) x).getD k false = (x && decide (code = BitVec.ofNat n k)) := by
  have hroute := dmuxTree_route (busOf code) x (k := k) (by rwa [busOf_length])
  have hiff : k = code.toNat ↔ code = BitVec.ofNat n k := by
    rw [BitVec.toNat_eq, BitVec.toNat_ofNat, Nat.mod_eq_of_lt hk, eq_comm]
  rw [List.getD_eq_getElem?_getD, hroute, busValue_busOf, Option.getD_some]
  simp only [hiff]

theorem gateDecoder_busOf (w : Word) : gateDecoder true (busOf w) =
    { hlt := decide (opField w = 0#3), nop := decide (opField w = 1#3), mov := decide (opField w = 2#3),
      set := decide (opField w = 3#3), cmp := decide (opField w = 4#3), alu := decide (opField w = 5#3),
      mem := decide (opField w = 6#3), io := decide (opField w = 7#3), fl := flField w,
      ra := busOf (raField w), rb := busOf (rbField w), aluop := busOf (aluopField w), imm := busOf (immField w) } := by
  obtain ⟨hfl, hra, hrb, haluop, himm⟩ := slices_busOf w
  have hline (k : Nat) (hk : k < 2 ^ 3) := dmuxTree_busOf_getD (opField w) true hk
  simp only [Bool.true_and] at hline
  simp only [gateDecoder, take_busOf_opcode, hfl, hra, hrb, haluop, himm, hline 0 (by decide), hline 1 (by decide),
    hline 2 (by decide), hline 3 (by decide), hline 4 (by decide), hline 5 (by decide), hline 6 (by decide),
    hline 7 (by decide)]

/-- The register file's read port (R296). -/
theorem muxTree_registerBuses (x : Regs) (code : BitVec 3) :
    muxTree (busOf code) (registerBuses x) = busOf (x.get (regOfCode code)) := by
  have hselect := muxTree_select (busOf code) (inputs := registerBuses x) (width := 16) rfl (by simp [registerBuses])
  apply Option.some.inj
  rw [hselect, busValue_busOf]
  obtain rfl | rfl | rfl | rfl | rfl | rfl | rfl | rfl := code_cases code <;> rfl

/-- The register file's write port (R296). -/
theorem registerFilePulse_busOf (x : Regs) (we : Bool) (code : BitVec 3) (v : Word) :
    registerFilePulse x we (busOf code) (busOf v) = if we then x.set (regOfCode code) v else x := by
  have hline (k : Nat) (hk : k < 2 ^ 3) := dmuxTree_busOf_getD code we hk
  simp only [registerFilePulse, hline 0 (by decide), hline 1 (by decide), hline 2 (by decide), hline 3 (by decide),
    hline 4 (by decide), hline 5 (by decide), hline 6 (by decide), hline 7 (by decide), registerPulse_busOf,
    wordOfBus_busOf]
  cases we with
  | false => rfl
  | true => obtain rfl | rfl | rfl | rfl | rfl | rfl | rfl | rfl := code_cases code <;> rfl

theorem reverse_busOf_getD (c : BitVec 3) {k : Nat} (hk : k < 3) : (busOf c).reverse.getD k false = c.getLsbD k := by
  interval_cases k <;> simp [busOf, List.range_succ, BitVec.getMsbD]

theorem comparisonUnit_busOf (f : Flags) (c : BitVec 3) : comparisonUnit f (busOf c) = condTrue (condOfBits c) f := by
  simp only [comparisonUnit, Switch.condBitOrder, reverse_busOf_getD c (k := 2) (by decide),
    reverse_busOf_getD c (k := 1) (by decide), reverse_busOf_getD c (k := 0) (by decide), orGate_eq, andGate_eq, notGate_eq,
    xorGate_eq]
  rfl

theorem readSelect_busOf (fourth : Bool) (code : BitVec 3) (x : Regs) (pc f : Word) :
    readSelect fourth (busOf code) (registerBuses x) (busOf pc) (busOf f) =
      busOf (if fourth then (if code.getLsbD 0 then f else pc) else x.get (regOfCode code)) := by
  have hlow : (busOf code).getD 2 false = code.getLsbD 0 := by simp [busOf, List.range_succ, BitVec.getMsbD]
  rw [readSelect, muxTree_registerBuses, hlow, busSwitch_busOf, busSwitch_busOf]

theorem busValue_append (a b : Bus) : busValue (a ++ b) = busValue a * 2 ^ b.length + busValue b := by
  induction a with
  | nil => simp
  | cons x a ih =>
    rw [List.cons_append, busValue_cons, busValue_cons, ih, List.length_append, pow_add]
    ring

theorem busOf_append {n m : Nat} (a : BitVec n) (b : BitVec m) : busOf a ++ busOf b = busOf (a ++ b) := by
  rw [eq_busOf_iff (by simp), busValue_append, busValue_busOf, busValue_busOf, busOf_length, BitVec.toNat_append,
    ← Nat.shiftLeft_add_eq_or_of_lt b.isLt, Nat.shiftLeft_eq]

/-- The two bytes of a word's bus. -/
theorem bytes_busOf (w : Word) :
    (busOf w).take 8 = busOf (w.extractLsb' 8 8) ∧ (busOf w).drop 8 = busOf (w.extractLsb' 0 8) := by
  simp [busOf, List.range_succ, BitVec.getMsbD]

theorem setUnit_busOf (high : Bool) (old : Word) (imm : BitVec 8) :
    setUnit high (busOf old) (busOf imm) = busOf (if high then setHighByte old imm else setLowByte old imm) := by
  obtain ⟨hhigh, hlow⟩ := bytes_busOf old
  rw [setUnit, zerosLike_busOf, busSwitch_busOf, Switch.setKeepsOtherByte, if_pos rfl, hhigh, hlow, busOf_append,
    busOf_append, busSwitch_busOf]
  rfl

theorem boolBus_eq (b : Bool) : List.replicate 15 false ++ [b] = busOf (boolWord b) := by cases b <;> rfl

/-! ## Memory and ports -/

theorem gateMemRead_busOf (s : State) (a : Word) : gateMemRead s (busOf a) = busOf (s.memRead a) := by
  simp [gateMemRead, VirtualRam.read, State.memRead]

theorem gateIoRead_busOf (s : State) (p : Word) : gateIoRead s (busOf p) = busOf (s.ioRead p) := by
  simp [gateIoRead, VirtualRam.read, State.ioRead]

theorem ioWrite_eq (s : State) (p v : Word) :
    s.ioWrite p v = { s with outPending := s.outPending.put p.toNat v, out := s.out.put p.toNat v,
                             outTrace := s.outTrace ++ [(p, v)] } := by
  simp only [State.ioWrite, State.commitOutput, State.latchOutput, cell_put_same]

/-- Pending slot and commit at one edge are one IO write (60_exceptions.md R341, R344). -/
theorem gatePortPulse_busOf (s : State) (we : Bool) (p v : Word) :
    gatePortPulse s we (busOf p) (busOf v) = if we then s.ioWrite p v else s := by
  cases we with
  | false => rfl
  | true =>
    simp only [gatePortPulse, virtualRam_pulse_cells, VirtualRam.read, busValue_busOf, wordOfBus_busOf, if_true,
      cell_put_same, Option.getD_some, ioWrite_eq]

end Sys2Proof.Proofs
end

section
/-!
SUPPORT. The gate CPU's Execute pulse as a function of words, and each instruction's rule on it: two pulses of the gate CPU
are one step (spec/47_gate_level_engine.md R295 to R306).
-/

namespace Sys2Proof.Proofs

open Sys2Proof.Machine

/-! ## The datapath on words -/

/-- The word a register write takes, by opcode (R296). -/
def datapathData (w : Word) (s : State) : Word :=
  let a := s.reg (regOfCode (raField w))
  let b := s.reg (regOfCode (rbField w))
  if opField w = 7#3 then s.ioRead a
  else if opField w = 6#3 then s.memRead a
  else if opField w = 5#3 then alternatePath (aluLines (aluopField w)) a b
  else if opField w = 4#3 then boolWord (condTrue (condOfBits (raField w)) s.flags)
  else if opField w = 3#3 then (if flField w then setHighByte a (immField w) else setLowByte a (immField w))
  else if opField w = 2#3 then
    (if flField w then (if (raField w).getLsbD 0 then flagsWord s.flags else s.pc) else a)
  else 0

/-- The register a register write goes to, by opcode (R296). -/
def datapathSelect (w : Word) : BitVec 3 :=
  if opField w = 5#3 then (if flField w then 5#3 else 4#3) else if opField w = 3#3 then raField w else rbField w

/-- The register write-enable, by opcode (R296). -/
def datapathWrites (w : Word) : Bool :=
  (decide (opField w = 2#3) || decide (opField w = 3#3)) || (decide (opField w = 5#3) ||
    ((decide (opField w = 4#3) || (decide (opField w = 6#3) || decide (opField w = 7#3))) && !flField w))

/-- What the execute stage does with an instruction word, unit by unit (R300, R301). -/
def datapath (w : Word) (s : State) : State :=
  let a := s.reg (regOfCode (raField w))
  let b := s.reg (regOfCode (rbField w))
  let fl := flField w
  let lines := aluLines (aluopField w)
  let cond := condTrue (condOfBits (raField w)) s.flags
  let jump := (decide (opField w = 4#3) && fl) && cond
  let alu := decide (opField w = 5#3)
  { (if decide (opField w = 7#3) && fl then s.ioWrite a b else s) with
    regs := if datapathWrites w then s.regs.set (regOfCode (datapathSelect w)) (datapathData w s) else s.regs
    pc := if jump then b else s.pc + 1
    flags := ⟨if alu then decide (alternatePath lines a b = 0) else s.flags.z,
              if alu then (alternatePath lines a b).msb else s.flags.n,
              if alu then (mainPath lines a b).v else s.flags.v⟩
    halted := decide (opField w = 0#3)
    mem := if decide (opField w = 6#3) && fl then s.mem.put a.toNat b else s.mem
    draws := if decide (opField w = 7#3) && !fl then s.draws + 1 else s.draws }

/-! ## The units together -/

theorem writeBus_busOf (w : Word) (moved replaced cond result loaded port : Word) :
    writeBus (gateDecoder true (busOf w)) (busOf moved) (busOf replaced) (busOf cond) (busOf result) (busOf loaded)
      (busOf port) =
    busOf (if opField w = 7#3 then port else if opField w = 6#3 then loaded else if opField w = 5#3 then result
      else if opField w = 4#3 then cond else if opField w = 3#3 then replaced else if opField w = 2#3 then moved
      else 0) := by
  simp only [writeBus, gateDecoder_busOf, zerosLike_busOf, busSwitch_busOf, decide_eq_true_eq]

theorem writeSelect_busOf (w : Word) :
    writeSelect (gateDecoder true (busOf w)) (selectLine (flField w) Switch.aluDestFlagQ) = busOf (datapathSelect w) := by
  have hdst : ([true, false, selectLine (flField w) Switch.aluDestFlagQ] : Bus) =
      busOf (if flField w then 5#3 else 4#3) := by cases flField w <;> rfl
  simp only [writeSelect, gateDecoder_busOf, dataField, Switch.memAddrField, hdst, busSwitch_busOf, datapathSelect,
    ite_self, decide_eq_true_eq]

theorem writeEnable_busOf (w : Word) : writeEnable (gateDecoder true (busOf w)) = datapathWrites w := by
  simp only [writeEnable, gateDecoder_busOf, orGate_eq, andGate_eq, notGate_eq, datapathWrites]

theorem selectLine_setHigh (fl : Bool) : selectLine fl Switch.setFlagSelectsHigh = fl := by cases fl <;> rfl

theorem gateExecuteWord_busOf (w : Word) (s : State) : gateExecuteWord (busOf w) s = datapath w s := by
  have hip : s.pc + Switch.ipReadOffset = s.pc := BitVec.add_zero s.pc
  have hdata := writeBus_busOf w
  have hsel := writeSelect_busOf w
  have hwe := writeEnable_busOf w
  rw [gateDecoder_busOf] at hsel hwe
  simp only [gateDecoder_busOf] at hdata
  simp only [gateExecuteWord, gateDecoder_busOf, hsel, hwe, BitVec.ofNat_toNat, BitVec.setWidth_eq, hip, addressField, dataField,
    Switch.memAddrField, muxTree_registerBuses, wordAdder_busOf, readSelect_busOf, selectLine_setHigh, setUnit_busOf,
    comparisonUnit_busOf, boolBus_eq, gateAlu_busOf, gateMemRead_busOf, gateIoRead_busOf, hdata, busSwitch_busOf,
    registerFilePulse_busOf, registerPulse_busOf, wordOfBus_busOf, gatePortPulse_busOf, virtualRam_pulse_cells,
    busValue_busOf, andGate_eq, notGate_eq, muxGate_eq, if_true]
  rfl

/-! ## The datapath, opcode by opcode -/

theorem datapath_hlt {w : Word} (hop : opField w = 0#3) (s : State) : datapath w s = s.halt := by
  simp [datapath, datapathWrites, hop]
  rfl

theorem datapath_nop {w : Word} (hop : opField w = 1#3) (s : State) : datapath w s = s.advance := by
  simp [datapath, datapathWrites, hop]
  rfl

theorem datapath_mov {w : Word} (hop : opField w = 2#3) (s : State) :
    datapath w s = (s.setReg (regOfCode (rbField w))
      (if flField w then (if (raField w).getLsbD 0 then flagsWord s.flags else s.pc)
       else s.reg (regOfCode (raField w)))).advance := by
  simp [datapath, datapathWrites, datapathSelect, datapathData, hop]
  rfl

theorem datapath_set {w : Word} (hop : opField w = 3#3) (s : State) :
    datapath w s = (s.setReg (regOfCode (raField w))
      (if flField w then setHighByte (s.reg (regOfCode (raField w))) (immField w)
       else setLowByte (s.reg (regOfCode (raField w))) (immField w))).advance := by
  simp [datapath, datapathWrites, datapathSelect, datapathData, hop]
  rfl

theorem datapath_cmpS {w : Word} (hop : opField w = 4#3) (hfl : flField w = false) (s : State) :
    datapath w s = (s.setReg (regOfCode (rbField w)) (boolWord (condTrue (condOfBits (raField w)) s.flags))).advance := by
  simp [datapath, datapathWrites, datapathSelect, datapathData, hop, hfl]
  rfl

theorem datapath_cmpJ {w : Word} (hop : opField w = 4#3) (hfl : flField w = true) (s : State) :
    datapath w s = if condTrue (condOfBits (raField w)) s.flags then s.goto (s.reg (regOfCode (rbField w)))
      else s.advance := by
  cases hc : condTrue (condOfBits (raField w)) s.flags with
  | false =>
    simp [datapath, datapathWrites, hop, hfl, hc]
    rfl
  | true =>
    simp [datapath, datapathWrites, hop, hfl, hc]
    rfl

theorem datapath_alu {w : Word} (hop : opField w = 5#3) (s : State) :
    let lines := aluLines (aluopField w)
    let a := s.reg (regOfCode (raField w))
    let b := s.reg (regOfCode (rbField w))
    datapath w s = ((s.setReg (regOfCode (if flField w then 5#3 else 4#3)) (alternatePath lines a b)).setFlags
      ⟨decide (alternatePath lines a b = 0), (alternatePath lines a b).msb, (mainPath lines a b).v⟩).advance := by
  simp [datapath, datapathWrites, datapathSelect, datapathData, hop]
  rfl

theorem datapath_ld {w : Word} (hop : opField w = 6#3) (hfl : flField w = false) (s : State) :
    datapath w s = (s.setReg (regOfCode (rbField w)) (s.memRead (s.reg (regOfCode (raField w))))).advance := by
  simp [datapath, datapathWrites, datapathSelect, datapathData, hop, hfl]
  rfl

theorem datapath_st {w : Word} (hop : opField w = 6#3) (hfl : flField w = true) (s : State) :
    datapath w s = (s.memWrite (s.reg (regOfCode (raField w))) (s.reg (regOfCode (rbField w)))).advance := by
  simp [datapath, datapathWrites, hop, hfl]
  rfl

theorem datapath_in {w : Word} (hop : opField w = 7#3) (hfl : flField w = false) (s : State) :
    datapath w s = (s.drawn.setReg (regOfCode (rbField w)) (s.ioRead (s.reg (regOfCode (raField w))))).advance := by
  simp [datapath, datapathWrites, datapathSelect, datapathData, hop, hfl]
  rfl

theorem datapath_out {w : Word} (hop : opField w = 7#3) (hfl : flField w = true) (s : State) :
    datapath w s = (s.ioWrite (s.reg (regOfCode (raField w))) (s.reg (regOfCode (rbField w)))).advance := by
  simp [datapath, datapathWrites, hop, hfl, ioWrite_eq]
  rfl

/-! ## Each instruction's rule on the datapath -/

theorem exec_mov_datapath {w : Word} {i : Instr} (hop : opField w = 2#3) (hi : decodeMov w = .ok i) (s : State) :
    exec i s = .next (datapath w s) := by
  rw [datapath_mov hop]
  cases hfl : flField w with
  | false =>
    rw [decodeMov_reg hfl] at hi
    cases hi
    rfl
  | true =>
    by_cases h0 : raField w = 0#3
    · rw [decodeMov_ip hfl h0] at hi
      cases hi
      have hip : s.pc + Switch.ipReadOffset = s.pc := BitVec.add_zero s.pc
      rw [h0, exec, execMovIp, hip]
      rfl
    · by_cases h1 : raField w = 1#3
      · rw [decodeMov_flags hfl h1] at hi
        cases hi
        rw [h1]
        rfl
      · rw [decodeMov_reserved hfl h0 h1] at hi
        cases hi

theorem exec_alu_datapath {w : Word} {i : Instr} (hop : opField w = 5#3) (hi : decodeAlu w = .ok i) (s : State) :
    exec i s = .next (datapath w s) := by
  cases hcode : Switch.aluTable.opOf (aluopField w) with
  | none => rw [decodeAlu_reserved hcode] at hi; cases hi
  | some op =>
    rw [decodeAlu_of_opOf hcode] at hi
    cases hi
    obtain ⟨hr, hv⟩ := alternatePath_eq (codeOf_of_opOf hcode) (s.reg (regOfCode (raField w)))
      (s.reg (regOfCode (rbField w)))
    have hdst : regOfCode (if flField w then 5#3 else 4#3) = (aluDestOfFlag (flField w)).reg := by
      cases flField w <;> rfl
    rw [exec_aluInstr, datapath_alu hop, hr, hv, hdst]
    rfl

/-- The datapath does what the interpreter's rule of the decoded instruction does. -/
theorem exec_datapath {w : Word} {i : Instr} (hi : decode w = .ok i) (s : State) : exec i s = .next (datapath w s) := by
  obtain hop | hop | hop | hop | hop | hop | hop | hop := code_cases (opField w)
  · rw [decode_op0 hop] at hi
    cases hi
    rw [datapath_hlt hop]
    rfl
  · rw [decode_op1 hop] at hi
    cases hi
    rw [datapath_nop hop]
    rfl
  · exact exec_mov_datapath hop (decode_op2 hop ▸ hi) s
  · rw [decode_op3 hop] at hi
    cases hi
    rw [datapath_set hop]
    cases hfl : flField w with
    | false => rw [decodeSet_low hfl]; rfl
    | true => rw [decodeSet_high hfl]; rfl
  · rw [decode_op4 hop] at hi
    cases hi
    cases hfl : flField w with
    | false => rw [decodeCmp_store hfl, datapath_cmpS hop hfl]; rfl
    | true => rw [decodeCmp_jump hfl, datapath_cmpJ hop hfl]; rfl
  · exact exec_alu_datapath hop (decode_op5 hop ▸ hi) s
  · rw [decode_op6 hop] at hi
    cases hi
    cases hfl : flField w with
    | false => rw [decodeMem_load hfl, datapath_ld hop hfl]; rfl
    | true => rw [decodeMem_store hfl, datapath_st hop hfl]; rfl
  · rw [decode_op7 hop] at hi
    cases hi
    cases hfl : flField w with
    | false => rw [decodeIo_in hfl, datapath_in hop hfl]; rfl
    | true => rw [decodeIo_out hfl, datapath_out hop hfl]; rfl

/-! ## Pulses -/

theorem gateFetch_eq (s : State) : gateFetch s = fetchPulse s := by
  rw [gateFetch, gateMemRead_busOf, registerPulse_busOf, wordOfBus_busOf]
  rfl

/-- The gate CPU's Execute pulse is the interpreter's, the fault on a reserved word included. -/
theorem gatePulse_of_execute {s : State} (hp : s.phase = .execute) : gatePulse s = executePulse s := by
  rw [gatePulse, hp, executePulse, executeWord]
  cases hw : decode s.ir with
  | error e => rfl
  | ok i =>
    simp only [exec_datapath hw, gateExecute, gateExecuteWord_busOf]
    rfl

theorem gatePulse_of_fetch {s : State} (hp : s.phase = .fetch) : gatePulse s = .next (fetchPulse s) := by
  rw [gatePulse, hp, gateFetch_eq]

theorem gateBootWriteEnable_eq (rom : List Word) (s : State) :
    gateBootWriteEnable rom s = bootWriteEnable rom s := by
  rw [gateBootWriteEnable, romLengthBus, xorBus, zipWith_xorGate_busOf, isZeroGate_busOf, notGate_eq, bootWriteEnable,
    beq_eq_decide]

theorem gateCpuEnabled_eq (rom : List Word) (s : State) : gateCpuEnabled rom s = cpuEnabled rom s := by
  rw [gateCpuEnabled, gateBootWriteEnable_eq, notGate_eq, cpuEnabled]

theorem machinePulse_of_enabled {rom : List Word} {s : State} (h : bootWriteEnable rom s = false) :
    machinePulse rom s = gatePulse s := by
  rw [machinePulse, gateBootWriteEnable_eq, h, if_neg Bool.false_ne_true]

/-- Write-enable looks at the counter alone. -/
theorem bootWriteEnable_congr {rom : List Word} {s t : State} (h : t.bootCount = s.bootCount) :
    bootWriteEnable rom t = bootWriteEnable rom s := by
  rw [bootWriteEnable, bootWriteEnable, h]

/-- What two pulses make of a state between instructions is what a step makes of it. -/
theorem machinePulse_fetched {rom : List Word} {s : State} (hp : s.phase = .fetch) (h : bootWriteEnable rom s = false) :
    machinePulse rom s = .next (fetchPulse s) ∧ machinePulse rom (fetchPulse s) = step s := by
  refine ⟨(machinePulse_of_enabled h).trans (gatePulse_of_fetch hp), ?_⟩
  rw [machinePulse_of_enabled ((bootWriteEnable_congr (fetchPulse_bootCount s)).trans h),
    gatePulse_of_execute (fetchPulse_phase s), step, runInstruction, hp]

/-- A step goes back to phase Fetch and leaves the bootloader at rest. -/
theorem step_sequencing {s t : State} (hp : s.phase = .fetch) (h : step s = .next t) :
    t.phase = .fetch ∧ t.bootCount = s.bootCount := by
  obtain ⟨i, u, -, hu, rfl⟩ := step_next hp h
  obtain ⟨-, ⟨-, -, hboot⟩, -⟩ := post_of_completes (completes_stores i (fetchPulse s)) hu
  exact ⟨rfl, hboot⟩

/-- Settles O42: by induction on the number of instructions. -/
theorem gatePulsesAreSteps : Obligations.GatePulsesAreSteps := by
  unfold Obligations.GatePulsesAreSteps
  intro rom s k hp hboot
  induction k generalizing s with
  | zero => rfl
  | succ k ih =>
    obtain ⟨hfetch, hexecute⟩ := machinePulse_fetched hp hboot
    have htwo : 2 * (k + 1) = 2 * k + 1 + 1 := rfl
    simp only [htwo, machinePulses, hfetch, hexecute, runSteps]
    cases hstep : step s with
    | fault f => rfl
    | refused r => rfl
    | next t =>
      obtain ⟨htp, htboot⟩ := step_sequencing hp hstep
      exact ih t htp ((bootWriteEnable_congr htboot).trans hboot)

end Sys2Proof.Proofs
end

section
/-!
SUPPORT. The Ram tree and its substitute (spec/47_gate_level_engine.md R276, R281, R282): by induction on the depth of the
tree.
-/

namespace Sys2Proof.Proofs

open Sys2Proof.Machine

/-! ## The shape of a tree -/

theorem shaped_zero {width : Nat} {t : RamTree} (h : t.shaped width 0 = true) : ∃ r, t = .leaf r ∧ r.length = width := by
  cases t with
  | leaf r => exact ⟨r, rfl, by simpa [RamTree.shaped] using h⟩
  | node lower upper => cases h

theorem shaped_succ {width k : Nat} {t : RamTree} (h : t.shaped width (k + 1) = true) :
    ∃ lower upper, t = .node lower upper ∧ lower.shaped width k = true ∧ upper.shaped width k = true := by
  cases t with
  | leaf r => cases h
  | node lower upper =>
    obtain ⟨hlower, hupper⟩ := Bool.and_eq_true_iff.mp h
    exact ⟨lower, upper, rfl, hlower, hupper⟩

theorem ram_tick_node (lower upper : RamTree) (a : Bool) (addr : Bus) (we : Bool) (input : Bus) :
    RamTree.tick (.node lower upper) (a :: addr) we input =
      .node (lower.tick addr (we && !a) input) (upper.tick addr (we && a) input) := by
  rw [RamTree.tick, notGate_eq, andGate_eq, andGate_eq]

theorem ram_pulse_node (lower upper : RamTree) (a : Bool) (addr : Bus) (we : Bool) (input : Bus) :
    RamTree.pulse (.node lower upper) (a :: addr) we input =
      .node (lower.pulse addr (we && !a) input) (upper.pulse addr (we && a) input) := by
  rw [RamTree.pulse, ram_tick_node]
  rfl

theorem shaped_tick {width depth : Nat} {t : RamTree} {addr input : Bus} (ht : t.shaped width depth = true)
    (haddr : addr.length = depth) (hinput : input.length = width) (we : Bool) :
    (t.tick addr we input).shaped width depth = true := by
  induction depth generalizing t addr we with
  | zero =>
    obtain ⟨r, rfl, hr⟩ := shaped_zero ht
    simp [RamTree.tick, RamTree.shaped, Register.tick, hr, hinput]
  | succ k ih =>
    obtain ⟨lower, upper, rfl, hlower, hupper⟩ := shaped_succ ht
    obtain ⟨a, addr, rfl⟩ := List.exists_cons_of_length_eq_add_one haddr
    have haddr' : addr.length = k := by simpa using haddr
    rw [ram_tick_node, RamTree.shaped, ih hlower haddr', ih hupper haddr', Bool.and_self]

theorem shaped_tock (width depth : Nat) (t : RamTree) : t.tock.shaped width depth = t.shaped width depth := by
  induction depth generalizing t with
  | zero => cases t <;> simp [RamTree.tock, RamTree.shaped, Register.tock]
  | succ k ih =>
    cases t with
    | leaf r => rfl
    | node lower upper => simp only [RamTree.tock, RamTree.shaped, ih]

theorem shaped_pulse {width depth : Nat} {t : RamTree} {addr input : Bus} (ht : t.shaped width depth = true)
    (haddr : addr.length = depth) (hinput : input.length = width) (we : Bool) :
    (t.pulse addr we input).shaped width depth = true := by
  rw [RamTree.pulse, shaped_tock, shaped_tick ht haddr hinput]

/-! ## Reading -/

/-- The top address wire chooses the half. -/
theorem ram_read_node {width : Nat} {lower upper : RamTree} {addr : Bus} (a : Bool)
    (hlower : (lower.read addr).length = width) (hupper : (upper.read addr).length = width) :
    RamTree.read (.node lower upper) (a :: addr) = if a then upper.read addr else lower.read addr := by
  rw [RamTree.read, busSwitch_eq a (hlower.trans hupper.symm)]

theorem ram_read_length {width depth : Nat} {t : RamTree} {addr : Bus} (ht : t.shaped width depth = true)
    (haddr : addr.length = depth) : (t.read addr).length = width := by
  induction depth generalizing t addr with
  | zero =>
    obtain ⟨r, rfl, hr⟩ := shaped_zero ht
    simpa [RamTree.read, Register.out] using hr
  | succ k ih =>
    obtain ⟨lower, upper, rfl, hlower, hupper⟩ := shaped_succ ht
    obtain ⟨a, addr, rfl⟩ := List.exists_cons_of_length_eq_add_one haddr
    have haddr' : addr.length = k := by simpa using haddr
    rw [RamTree.read, busSwitch_length, ih hlower haddr', ih hupper haddr', min_self]

/-- Nothing shows between tick and tock. -/
theorem ram_read_tick {width depth : Nat} {t : RamTree} {addr addr' input : Bus} (ht : t.shaped width depth = true)
    (haddr : addr.length = depth) (haddr' : addr'.length = depth) (hinput : input.length = width) (we : Bool) :
    (t.tick addr we input).read addr' = t.read addr' := by
  induction depth generalizing t addr addr' we with
  | zero =>
    obtain ⟨r, rfl, hr⟩ := shaped_zero ht
    exact registerOut_tick we (hinput.trans hr.symm)
  | succ k ih =>
    obtain ⟨lower, upper, rfl, hlower, hupper⟩ := shaped_succ ht
    obtain ⟨a, addr, rfl⟩ := List.exists_cons_of_length_eq_add_one haddr
    obtain ⟨a', addr', rfl⟩ := List.exists_cons_of_length_eq_add_one haddr'
    have hlen : addr.length = k := by simpa using haddr
    have hlen' : addr'.length = k := by simpa using haddr'
    rw [ram_tick_node, RamTree.read, RamTree.read, ih hlower hlen hlen', ih hupper hlen hlen']

/-- After a pulse the addressed cell holds the input under write-enable, every other its old value. -/
theorem ram_read_pulse {width depth : Nat} {t : RamTree} {addr addr' input : Bus} (ht : t.shaped width depth = true)
    (haddr : addr.length = depth) (haddr' : addr'.length = depth) (hinput : input.length = width) (we : Bool) :
    (t.pulse addr we input).read addr' = if we = true ∧ addr' = addr then input else t.read addr' := by
  induction depth generalizing t addr addr' we with
  | zero =>
    obtain ⟨r, rfl, hr⟩ := shaped_zero ht
    obtain rfl := List.length_eq_zero_iff.mp haddr
    obtain rfl := List.length_eq_zero_iff.mp haddr'
    simpa [RamTree.read, RamTree.pulse, RamTree.tick, RamTree.tock] using
      registerOut_tock_tick we (hinput.trans hr.symm)
  | succ k ih =>
    obtain ⟨lower, upper, rfl, hlower, hupper⟩ := shaped_succ ht
    obtain ⟨a, addr, rfl⟩ := List.exists_cons_of_length_eq_add_one haddr
    obtain ⟨a', addr', rfl⟩ := List.exists_cons_of_length_eq_add_one haddr'
    have hlen : addr.length = k := by simpa using haddr
    have hlen' : addr'.length = k := by simpa using haddr'
    rw [ram_pulse_node, ram_read_node a' (ram_read_length (shaped_pulse hlower hlen hinput _) hlen')
      (ram_read_length (shaped_pulse hupper hlen hinput _) hlen'),
      ram_read_node a' (ram_read_length hlower hlen') (ram_read_length hupper hlen'),
      ih hlower hlen hlen', ih hupper hlen hlen']
    cases a <;> cases a' <;> simp

/-- Settles O49. -/
theorem ramPulseWritesAddressedCell : Obligations.RamPulseWritesAddressedCell := by
  unfold Obligations.RamPulseWritesAddressedCell
  intro depth width t addr addr' input we ht haddr haddr' hinput
  exact ⟨shaped_pulse ht haddr hinput we, ram_read_tick ht haddr haddr' hinput we,
    ram_read_pulse ht haddr haddr' hinput we⟩

/-! ## The substitute -/

/-- Settles O50: the tick of either changes no read, and both take the input at the address the pulse names, which its number
tells from every other of its width. -/
theorem virtualRamMatchesRamTree : Obligations.VirtualRamMatchesRamTree := by
  unfold Obligations.VirtualRamMatchesRamTree
  intro depth t m addr input we ht haddr hinput hagree
  refine ⟨fun a ha => ?_, fun a ha => ?_⟩
  · rw [ram_read_tick ht haddr ha hinput]
    exact hagree a ha
  · have hpulse : (m.pulse addr we input).cells = if we then m.cells.put (busValue addr) (wordOfBus input) else m.cells := by
      cases we <;> rfl
    rw [hpulse, ram_read_pulse ht haddr ha hinput]
    cases we with
    | false => simpa using hagree a ha
    | true =>
      have hiff : busValue a = busValue addr ↔ a = addr := busValue_inj (ha.trans haddr.symm)
      rw [if_pos rfl, cell_put]
      by_cases heq : a = addr
      · simp [heq]
      · simpa [heq, hiff] using hagree a ha

end Sys2Proof.Proofs
end

section
/-!
SUPPORT. The signal engine: binding, plain evaluation of a netlist and its memoised form (spec/47_gate_level_engine.md R251 to
R254).
-/

namespace Sys2Proof.Proofs

open Sys2Proof.Machine

/-! ## Binding -/

theorem bindBus_widthMismatch (n : Netlist) {sinks sources : List Nat} (h : sinks.length ≠ sources.length) :
    n.bindBus sinks sources = .error .widthMismatch := by
  cases sinks with
  | nil =>
    cases sources with
    | nil => exact absurd rfl h
    | cons source sources => rfl
  | cons sink sinks =>
    cases sources with
    | nil => rfl
    | cons source sources =>
      have htail : sinks.length ≠ sources.length := fun heq => h (congrArg Nat.succ heq)
      rw [Netlist.bindBus, if_neg htail]

theorem ifComplete_of_incomplete {α : Type} {n : Netlist} {k : Nat} (hk : k ∈ n.sinks)
    (hcount : n.bindings.countP (fun b => b.1 == k) ≠ 1) (e : Except Refusal α) :
    n.ifComplete e = .error .malformedNetlist := by
  have hincomplete : ¬n.complete = true := fun hall =>
    hcount (by simpa using List.all_eq_true.mp hall k hk)
  rw [Netlist.ifComplete, if_neg hincomplete]

/-- Settles O51: the newest binding is found first; evaluation asks for completeness before anything else. -/
theorem sinksBindOnce : Obligations.SinksBindOnce := by
  unfold Obligations.SinksBindOnce
  intro n sink source
  refine ⟨?_, fun hfree => ?_, fun sinks sources h => bindBus_widthMismatch n h, ?_⟩
  · rintro ⟨old, hold⟩
    simp [Netlist.bind, hold]
  · refine ⟨{ n with bindings := (sink, source) :: n.bindings }, by simp [Netlist.bind, hfree],
      by simp [Netlist.boundTo], fun k hk => ?_, rfl, rfl⟩
    have hne : (sink == k) = false := by simpa using hk.symm
    simp [Netlist.boundTo, hne]
  · rintro ⟨k, hk, hcount⟩ e
    have htick : e.tick n = .error .malformedNetlist := ifComplete_of_incomplete hk hcount _
    exact ⟨ifComplete_of_incomplete hk hcount _, htick, by rw [Engine.pulse, htick]⟩

/-! ## Plain evaluation -/

/-- What plain evaluation with one unit of fuel more rests on: a source off the active path that is an input, a cell, or a NAND
both of whose sources have a value. -/
inductive ValueStep (n : Netlist) (l : Levels) (fuel : Nat) (active : List Nat) (source : Nat) : Bool → Prop
  | input {k : Nat} {b : Bool} (hs : n.sources[source]? = some (.input k)) (hb : levelAt l.inputs k = .ok b) :
    ValueStep n l fuel active source b
  | clocked {k : Nat} {b : Bool} (hs : n.sources[source]? = some (.clocked k)) (hb : levelAt l.committed k = .ok b) :
    ValueStep n l fuel active source b
  | nand {sinkA sinkB sourceA sourceB : Nat} {a b : Bool} (hs : n.sources[source]? = some (.nand sinkA sinkB))
    (hboundA : n.boundTo sinkA = some sourceA) (hboundB : n.boundTo sinkB = some sourceB)
    (ha : n.value l fuel (source :: active) sourceA = .ok a) (hb : n.value l fuel (source :: active) sourceB = .ok b) :
    ValueStep n l fuel active source (nandGate a b)

theorem value_succ_ok_iff {n : Netlist} {l : Levels} {fuel : Nat} {active : List Nat} {source : Nat} {b : Bool} :
    n.value l (fuel + 1) active source = .ok b ↔ source ∉ active ∧ ValueStep n l fuel active source b := by
  constructor
  · intro h
    rw [Netlist.value] at h
    split at h
    · cases h
    · rename_i hactive
      refine ⟨by simpa using hactive, ?_⟩
      split at h
      · cases h
      · rename_i k hs; exact .input hs h
      · rename_i k hs; exact .clocked hs h
      · rename_i sinkA sinkB hs
        split at h
        · rename_i sourceA sourceB hboundA hboundB
          split at h
          · rename_i a b' ha hb
            cases h
            exact .nand hs hboundA hboundB ha hb
          · cases h
          · cases h
        · cases h
  · rintro ⟨hactive, hstep⟩
    cases hstep with
    | input hs hb => simp [Netlist.value, hactive, hs, hb]
    | clocked hs hb => simp [Netlist.value, hactive, hs, hb]
    | nand hs hboundA hboundB ha hb => simp [Netlist.value, hactive, hs, hboundA, hboundB, ha, hb]

theorem value_zero_ne_ok {n : Netlist} {l : Levels} {active : List Nat} {source : Nat} {b : Bool} :
    n.value l 0 active source ≠ .ok b := by
  simp [Netlist.value]

/-- A source on the active path has no value. -/
theorem not_mem_active_of_value {n : Netlist} {l : Levels} {fuel : Nat} {active : List Nat} {source : Nat} {b : Bool}
    (h : n.value l fuel active source = .ok b) : source ∉ active := by
  cases fuel with
  | zero => exact absurd h value_zero_ne_ok
  | succ fuel => exact (value_succ_ok_iff.mp h).1

/-- Settles O52: a value of the gate would need one of its own output, evaluated below itself. -/
theorem selfFeedingGateHasNoValue : Obligations.SelfFeedingGateHasNoValue := by
  unfold Obligations.SelfFeedingGateHasNoValue
  intro n l source sinkA sinkB hsource hbound fuel active
  cases hvalue : n.value l fuel active source with
  | error r => exact ⟨r, rfl⟩
  | ok b =>
    exfalso
    cases fuel with
    | zero => exact value_zero_ne_ok hvalue
    | succ fuel =>
      obtain ⟨-, hstep⟩ := value_succ_ok_iff.mp hvalue
      cases hstep with
      | input hs => rw [hsource] at hs; cases hs
      | clocked hs => rw [hsource] at hs; cases hs
      | nand hs hboundA hboundB ha hb =>
        rw [hsource] at hs
        cases hs
        obtain hself | hself := hbound
        · rw [hboundA] at hself
          cases hself
          exact not_mem_active_of_value ha List.mem_cons_self
        · rw [hboundB] at hself
          cases hself
          exact not_mem_active_of_value hb List.mem_cons_self

/-! ## Fuel and active path -/

/-- More fuel and fewer active sources keep a value. -/
theorem value_mono {n : Netlist} {l : Levels} {fuel fuel' : Nat} {active active' : List Nat} {source : Nat} {b : Bool}
    (h : n.value l fuel active source = .ok b) (hfuel : fuel ≤ fuel') (hactive : active' ⊆ active) :
    n.value l fuel' active' source = .ok b := by
  induction fuel generalizing fuel' active active' source b with
  | zero => exact absurd h value_zero_ne_ok
  | succ fuel ih =>
    obtain ⟨fuel', rfl⟩ := Nat.exists_eq_succ_of_ne_zero (Nat.ne_of_gt (Nat.lt_of_lt_of_le (Nat.succ_pos fuel) hfuel))
    obtain ⟨hmem, hstep⟩ := value_succ_ok_iff.mp h
    refine value_succ_ok_iff.mpr ⟨fun hin => hmem (hactive hin), ?_⟩
    have hbelow : source :: active' ⊆ source :: active := List.cons_subset_cons source hactive
    have hle := Nat.le_of_succ_le_succ hfuel
    cases hstep with
    | input hs hb => exact .input hs hb
    | clocked hs hb => exact .clocked hs hb
    | nand hs hboundA hboundB ha hb => exact .nand hs hboundA hboundB (ih ha hle hbelow) (ih hb hle hbelow)

/-- A source has one value, whatever the fuel and the active paths. -/
theorem value_unique {n : Netlist} {l : Levels} {fuel fuel' : Nat} {active active' : List Nat} {source : Nat} {b b' : Bool}
    (h : n.value l fuel active source = .ok b) (h' : n.value l fuel' active' source = .ok b') : b = b' := by
  have hmax := value_mono h (le_max_left fuel fuel') (List.nil_subset _)
  have hmax' := value_mono h' (le_max_right fuel fuel') (List.nil_subset _)
  exact Except.ok.inj (hmax.symm.trans hmax')

/-- Evaluation of a source either never meets `x`, so that `x` may stand on the active path, or gives `x` a value on the way. -/
theorem value_avoids_or_meets {n : Netlist} {l : Levels} {fuel : Nat} {active : List Nat} {source : Nat} {b : Bool} (x : Nat)
    (h : n.value l fuel active source = .ok b) :
    (∀ active', active' ⊆ x :: active → n.value l fuel active' source = .ok b) ∨ ∃ k c, n.value l k [] x = .ok c := by
  induction fuel generalizing active source b with
  | zero => exact absurd h value_zero_ne_ok
  | succ fuel ih =>
    by_cases hx : x = source
    · exact .inr ⟨fuel + 1, b, hx ▸ value_mono h le_rfl (List.nil_subset _)⟩
    · obtain ⟨hmem, hstep⟩ := value_succ_ok_iff.mp h
      have hoff (active' : List Nat) (hsub : active' ⊆ x :: active) : source ∉ active' := fun hin =>
        (List.mem_cons.mp (hsub hin)).elim (fun heq => hx heq.symm) hmem
      cases hstep with
      | input hs hb => exact .inl fun active' hsub => value_succ_ok_iff.mpr ⟨hoff active' hsub, .input hs hb⟩
      | clocked hs hb => exact .inl fun active' hsub => value_succ_ok_iff.mpr ⟨hoff active' hsub, .clocked hs hb⟩
      | nand hs hboundA hboundB ha hb =>
        obtain hA | hA := ih ha
        · obtain hB | hB := ih hb
          · refine .inl fun active' hsub => value_succ_ok_iff.mpr ⟨hoff active' hsub, ?_⟩
            have hbelow : source :: active' ⊆ x :: source :: active :=
              List.Subset.trans (List.cons_subset_cons source hsub) (List.Perm.swap x source active).subset
            exact .nand hs hboundA hboundB (hA _ hbelow) (hB _ hbelow)
          · exact .inr hB
        · exact .inr hA

/-- A NAND has a value when both its sources have. -/
theorem value_nand {n : Netlist} {l : Levels} {source sinkA sinkB sourceA sourceB : Nat} {a b : Bool}
    (hs : n.sources[source]? = some (.nand sinkA sinkB)) (hboundA : n.boundTo sinkA = some sourceA)
    (hboundB : n.boundTo sinkB = some sourceB) (ha : ∃ k, n.value l k [] sourceA = .ok a)
    (hb : ∃ k, n.value l k [] sourceB = .ok b) : ∃ k, n.value l k [] source = .ok (nandGate a b) := by
  by_cases hmet : ∃ k c, n.value l k [] source = .ok c
  · obtain ⟨k, c, hc⟩ := hmet
    cases k with
    | zero => exact absurd hc value_zero_ne_ok
    | succ k =>
      obtain ⟨-, hstep⟩ := value_succ_ok_iff.mp hc
      cases hstep with
      | input hs' => rw [hs] at hs'; cases hs'
      | clocked hs' => rw [hs] at hs'; cases hs'
      | nand hs' hboundA' hboundB' ha' hb' =>
        rw [hs] at hs'
        cases hs'
        rw [hboundA] at hboundA'
        cases hboundA'
        rw [hboundB] at hboundB'
        cases hboundB'
        obtain ⟨kA, hA⟩ := ha
        obtain ⟨kB, hB⟩ := hb
        rw [value_unique ha' hA, value_unique hb' hB] at hc
        exact ⟨k + 1, hc⟩
  · obtain ⟨kA, hA⟩ := ha
    obtain ⟨kB, hB⟩ := hb
    have hA' := (value_avoids_or_meets source hA).resolve_right hmet [source] (List.Subset.refl _)
    have hB' := (value_avoids_or_meets source hB).resolve_right hmet [source] (List.Subset.refl _)
    exact ⟨max kA kB + 1, value_succ_ok_iff.mpr ⟨List.not_mem_nil, .nand hs hboundA hboundB
      (value_mono hA' (le_max_left kA kB) (List.Subset.refl _))
      (value_mono hB' (le_max_right kA kB) (List.Subset.refl _))⟩⟩

/-! ## Memoised evaluation -/

/-- Every value memoised at the engine's nonce is the one plain evaluation gives. -/
def MemoSound (n : Netlist) (e : Engine) : Prop :=
  ∀ m ∈ e.memo, m.1 = e.nonce → ∃ k, n.value e.levels k [] m.2.1 = .ok m.2.2

theorem value_of_recalled {n : Netlist} {e : Engine} {source : Nat} {b : Bool} (he : MemoSound n e)
    (h : e.recalled source = some b) : ∃ k, n.value e.levels k [] source = .ok b := by
  obtain ⟨m, hm, rfl⟩ := Option.map_eq_some_iff.mp h
  have hkey := List.find?_some hm
  simp only [Bool.and_eq_true, beq_iff_eq] at hkey
  obtain ⟨hnonce, rfl⟩ := hkey
  exact he m (List.mem_of_find?_eq_some hm) hnonce

theorem memoSound_remember {n : Netlist} {e : Engine} {source : Nat} {b : Bool} (he : MemoSound n e)
    (hb : ∃ k, n.value e.levels k [] source = .ok b) : MemoSound n (e.remember source b) := by
  intro m hm hnonce
  obtain rfl | hm := List.mem_cons.mp hm
  · exact hb
  · exact he m hm hnonce

/-- What a memoised read keeps and answers. -/
structure ReadSound (n : Netlist) (e : Engine) (source : Nat) (b : Bool) (e' : Engine) : Prop where
  value : ∃ k, n.value e.levels k [] source = .ok b
  memo : MemoSound n e'
  levels : e'.levels = e.levels
  nonce : e'.nonce = e.nonce

theorem readSound_remember {n : Netlist} {e e' : Engine} {source : Nat} {b : Bool} (he : MemoSound n e')
    (hlevels : e'.levels = e.levels) (hnonce : e'.nonce = e.nonce) (hb : ∃ k, n.value e.levels k [] source = .ok b) :
    ReadSound n e source b (e'.remember source b) :=
  ⟨hb, memoSound_remember he (hlevels ▸ hb), hlevels, hnonce⟩

/-- From a sound memo a read answers the plain value and leaves a sound memo, along the recursion of the read. -/
theorem read_sound {n : Netlist} {fuel : Nat} {active : List Nat} {source : Nat} {e e' : Engine} {b : Bool}
    (he : MemoSound n e) (h : Engine.read n fuel active source e = .ok (b, e')) : ReadSound n e source b e' := by
  induction fuel generalizing active source e e' b with
  | zero => cases h
  | succ fuel ih =>
    rw [Engine.read] at h
    split at h
    · rename_i b' hrecalled
      cases h
      exact ⟨value_of_recalled he hrecalled, he, rfl, rfl⟩
    · split at h
      · cases h
      · split at h
        · cases h
        · rename_i k hs
          split at h
          · rename_i b' hb
            cases h
            exact readSound_remember he rfl rfl ⟨1, value_succ_ok_iff.mpr ⟨List.not_mem_nil, .input hs hb⟩⟩
          · cases h
        · rename_i k hs
          split at h
          · rename_i b' hb
            cases h
            exact readSound_remember he rfl rfl ⟨1, value_succ_ok_iff.mpr ⟨List.not_mem_nil, .clocked hs hb⟩⟩
          · cases h
        · rename_i sinkA sinkB hs
          split at h
          · rename_i sourceA sourceB hboundA hboundB
            split at h
            · cases h
            · rename_i a e1 hreadA
              split at h
              · cases h
              · rename_i b' e2 hreadB
                cases h
                obtain ⟨ha, hmemo1, hlevels1, hnonce1⟩ := ih he hreadA
                obtain ⟨hb, hmemo2, hlevels2, hnonce2⟩ := ih hmemo1 hreadB
                rw [hlevels1] at hb hlevels2
                exact readSound_remember hmemo2 hlevels2 (hnonce2.trans hnonce1) (value_nand hs hboundA hboundB ha hb)
          · cases h

/-- Settles O53: with nothing memoised at the nonce the memo is sound. -/
theorem memoisedReadAgreesWithPlainEvaluation : Obligations.MemoisedReadAgreesWithPlainEvaluation := by
  unfold Obligations.MemoisedReadAgreesWithPlainEvaluation
  intro n e e' fuel source b hfresh hread
  obtain ⟨hvalue, -, hlevels, hnonce⟩ := read_sound (fun m hm hnonce => absurd hnonce (hfresh m hm)) hread
  exact ⟨hvalue, hlevels, hnonce⟩

end Sys2Proof.Proofs
end

section
/-!
SUPPORT. The load of the ROM, in both realisations and with devices running (spec/70_reset_and_hazards.md R370 to R380).
-/

namespace Sys2Proof.Proofs

open Sys2Proof.Machine

/-! ## The gate bootloader's edge -/

theorem xor_eq_zero_iff (a b : Word) : a ^^^ b = 0 ↔ a = b := BitVec.xor_eq_zero_iff

theorem gateBootMemory_eq (rom : List Word) (s : State) :
    gateBootMemory rom s = match bootData rom s with
      | some w => if bootWriteEnable rom s then s.mem.put s.bootCount.toNat w else s.mem
      | none => s.mem := by
  rw [gateBootMemory]
  cases bootData rom s with
  | none => rfl
  | some w => simp only [virtualRam_pulse_cells, gateBootWriteEnable_eq, busValue_busOf, wordOfBus_busOf]

/-- The gate bootloader's edge is the bootloader's, at every counter (R373, R377). -/
theorem gateBootEdge_eq (rom : List Word) (s : State) : gateBootEdge rom s = bootEdge rom s := by
  have hfalls : isZeroGate (xorBus (busOf (s.bootCount + 1)) (romLengthBus rom)) =
      decide (s.bootCount + 1 = BitVec.ofNat 16 rom.length) := by
    rw [romLengthBus, xorBus, zipWith_xorGate_busOf, isZeroGate_busOf]
    exact decide_eq_decide.mpr (xor_eq_zero_iff _ _)
  simp only [gateBootEdge, gateBootMemory_eq, gateBootWriteEnable_eq, wordAdder_busOf, hfalls, zerosLike_busOf,
    busSwitch_busOf, registerPulse_busOf, wordOfBus_busOf, decide_eq_true_eq]
  rw [bootEdge]
  cases hwe : bootWriteEnable rom s with
  | false => cases bootData rom s <;> rfl
  | true => cases bootData rom s <;> rfl

theorem machine_bootEdge (m : Realisation) (s : State) : m.bootEdge s = bootEdge m.rom s := by
  obtain ⟨backend, rom⟩ := m
  cases backend with
  | interpreter => rfl
  | gates => exact gateBootEdge_eq rom s

/-! ## The load from the reset pulse on -/

theorem bootEdges_succ (rom : List Word) (k : Nat) (s : State) :
    bootEdges rom (k + 1) s = bootEdge rom (bootEdges rom k s) := by
  induction k generalizing s with
  | zero => rfl
  | succ k ih => rw [bootEdges, ih, bootEdges]

theorem putAll_append (m : Memory) (i : Nat) (ws : List Word) (w : Word) :
    m.putAll i (ws ++ [w]) = (m.putAll i ws).put (i + ws.length) w := by
  induction ws generalizing m i with
  | nil => rfl
  | cons v ws ih =>
    have hindex : i + 1 + ws.length = i + (v :: ws).length := by rw [List.length_cons]; omega
    rw [List.cons_append, Memory.putAll, ih, hindex, Memory.putAll]

/-- The edge that writes word `j` of the ROM. -/
theorem bootEdge_at {rom : List Word} {s : State} {j : Nat} (hN : rom.length ≤ 65535) (hj : j < rom.length)
    (hs : s.bootCount = BitVec.ofNat 16 j) :
    bootEdge rom s = { s with mem := s.mem.put j rom[j], bootCount := BitVec.ofNat 16 (j + 1),
                              pc := if j + 1 = rom.length then 0 else BitVec.ofNat 16 j } := by
  have hwe : bootWriteEnable rom s = true := (bootWriteEnable_iff_lt hN hj.le hs).mpr hj
  have hdata : bootData rom s = some rom[j] := by rw [bootData_at (by omega) hs, List.getElem?_eq_getElem hj]
  have hnext : BitVec.ofNat 16 j + 1 = BitVec.ofNat 16 (j + 1) := (BitVec.ofNat_add j 1).symm
  have hlast : BitVec.ofNat 16 (j + 1) = BitVec.ofNat 16 rom.length ↔ j + 1 = rom.length := by
    rw [BitVec.toNat_eq, BitVec.toNat_ofNat, BitVec.toNat_ofNat]
    omega
  have haddr : (bootAddress s).toNat = j := by
    rw [bootAddress, hs, BitVec.toNat_ofNat]
    omega
  rw [bootEdge, if_pos hwe, hdata]
  simp only [State.memWrite, haddr, bootPc, hs, hnext, hlast]

/-- After `j` edges the first `j` words are in memory; at the last the program counter is 0 (R373, R378). -/
theorem bootEdges_resetPulse {rom : List Word} (hN : rom.length ≤ 65535) (s : State) {j : Nat} (hj : j ≤ rom.length) :
    bootEdges rom j (resetPulse s) =
      { resetPulse s with mem := s.mem.putAll 0 (rom.take j), bootCount := BitVec.ofNat 16 j,
                          pc := if j = rom.length then 0 else BitVec.ofNat 16 (j - 1) } := by
  induction j with
  | zero =>
    have hpc : (if 0 = rom.length then 0 else BitVec.ofNat 16 (0 - 1) : Word) = 0 := ite_self 0
    rw [hpc]
    rfl
  | succ j ih =>
    have hlt : j < rom.length := hj
    rw [bootEdges_succ, ih hlt.le, bootEdge_at hN hlt rfl]
    have hwords : (s.mem.putAll 0 (rom.take j)).put j rom[j] = s.mem.putAll 0 (rom.take (j + 1)) := by
      rw [List.take_succ_eq_append_getElem hlt, putAll_append, List.length_take, Nat.min_eq_left hlt.le, Nat.zero_add]
    simp only [hwords, Nat.add_sub_cancel]

theorem bootLoad_eq {rom : List Word} (hN : rom.length ≤ 65535) (s : State) :
    bootLoad rom s = resetWith rom (Unspecified.kept s) s := by
  rw [bootLoad, bootEdges_resetPulse hN s le_rfl, List.take_length, if_pos rfl]
  rfl

/-! ## The load with devices running -/

theorem bootEdge_input (rom : List Word) (s : State) (inp : Memory) :
    bootEdge rom { s with input := inp } = { bootEdge rom s with input := inp } := by
  have hwe : bootWriteEnable rom { s with input := inp } = bootWriteEnable rom s := rfl
  have hdata : bootData rom { s with input := inp } = bootData rom s := rfl
  rw [bootEdge, bootEdge, hwe, hdata]
  cases bootWriteEnable rom s <;> cases bootData rom s <;> rfl

theorem bootEdges_input (rom : List Word) (k : Nat) (s : State) (inp : Memory) :
    bootEdges rom k { s with input := inp } = { bootEdges rom k s with input := inp } := by
  induction k generalizing s with
  | zero => rfl
  | succ k ih => rw [bootEdges, bootEdge_input, ih, bootEdges]

/-- An edge with devices is the bootloader's edge but for the input sides. -/
theorem board_bootEdge_state (b : Board) :
    b.bootEdge.machine = b.machine ∧ ∃ inp, b.bootEdge.state = { bootEdge b.machine.rom b.state with input := inp } := by
  obtain ⟨inp, h, -⟩ := updateDevices_spec b.devices b.state
  refine ⟨rfl, inp, ?_⟩
  show b.machine.bootEdge (updateDevices b.devices b.state).2 = _
  rw [h, machine_bootEdge, bootEdge_input]

theorem board_bootEdges_state (k : Nat) (b : Board) :
    ∃ inp, (Board.bootEdges k b).state = { bootEdges b.machine.rom k b.state with input := inp } := by
  induction k generalizing b with
  | zero => exact ⟨b.state.input, rfl⟩
  | succ k ih =>
    obtain ⟨hmachine, inp, hedge⟩ := board_bootEdge_state b
    obtain ⟨inp', hedges⟩ := ih b.bootEdge
    exact ⟨inp', by rw [Board.bootEdges, hedges, hmachine, hedge, bootEdges_input, bootEdges]⟩

/-- Update rounds leave everything but devices and input sides. -/
theorem board_updated (rounds : Nat) (b : Board) :
    (b.updated rounds).machine = b.machine ∧ ∃ inp, (b.updated rounds).state = { b.state with input := inp } := by
  obtain ⟨inp, h, -⟩ := updateRounds_spec rounds b.devices b.state
  exact ⟨rfl, inp, h⟩

/-- The state a Computer's load leaves, but for the input sides. -/
theorem load_state (c : Computer) (u : Unspecified) :
    ∃ inp, (c.load u).state = { bootLoad c.rom (u.takenBy c.state) with input := inp } := by
  obtain ⟨hmachine, inp, hupdated⟩ :=
    board_updated u.pulseEdges { c.board with state := u.takenBy (resetPulse c.state) }
  obtain ⟨inp', hload⟩ :=
    board_bootEdges_state c.rom.length (Board.updated u.pulseEdges { c.board with state := u.takenBy (resetPulse c.state) })
  rw [hmachine, hupdated, bootEdges_input] at hload
  exact ⟨inp', hload⟩

/-! ## The obligations -/

/-- A Computer's reset is the one transition, in either backend (R380). -/
theorem resetState_eq (c : Computer) (u : Unspecified) (h : c.backend = .interpreter ∨ c.rom.length ≤ 65535) :
    c.resetState u = resetWith c.rom u c.state := by
  cases hb : c.backend with
  | interpreter => rw [Computer.resetState, hb]
  | gates =>
    have hN : c.rom.length ≤ 65535 := h.resolve_left (by rw [hb]; decide)
    obtain ⟨inp, hload⟩ := load_state c u
    rw [Computer.resetState, hb]
    simp only [hload, bootLoad_eq hN]
    rfl

/-- A loaded ROM reads back, and leaves what lies beyond it. -/
theorem cell_loaded (m : Memory) (rom : List Word) (k : Nat) :
    (m.putAll 0 rom).cell k = if k < rom.length then rom[k]? else m.cell k := by
  rw [cell_putAll, Nat.zero_add, Nat.sub_zero]
  simp only [Nat.zero_le, true_and]

/-- Settles O39. -/
theorem resetLoadsRomAndClears : Obligations.ResetLoadsRomAndClears := by
  unfold Obligations.ResetLoadsRomAndClears
  refine ⟨fun rom u s hN => ?_, fun _ _ => rfl, fun c u h => resetState_eq c u h⟩
  refine ⟨rfl, rfl, rfl, rfl, fun k hk => ?_, fun k hk => ?_, rfl, rfl, rfl, rfl, rfl, rfl, bootLoad_eq hN s⟩
  · have haddr : (BitVec.ofNat 16 k).toNat = k := by
      rw [BitVec.toNat_ofNat]
      omega
    rw [State.memRead, haddr, resetWith, cell_loaded, if_pos hk, List.getElem?_eq_getElem hk, Option.getD_some]
  · rw [resetWith, cell_loaded, if_neg (not_lt.mpr hk)]

/-- Settles O41: during the load write-enable is high, and a pulse of the gate machine is the bootloader's edge; at its end the
edges have left `pc` at 0. -/
theorem bootloaderHoldsCpuDisabled : Obligations.BootloaderHoldsCpuDisabled := by
  unfold Obligations.BootloaderHoldsCpuDisabled
  intro m s k ds hN b e
  obtain ⟨hwrites, hrests⟩ := bootloaderPresentsRomOnce m.rom s k hN
  constructor
  · intro hk
    obtain ⟨hwe, -, -⟩ := hwrites hk
    have hdisabled : cpuEnabled m.rom b = false := by rw [cpuEnabled, hwe]; rfl
    have hpulse : machinePulse m.rom b = .next e := by
      rw [machinePulse, gateBootWriteEnable_eq, if_pos hwe, gateBootEdge_eq]
    obtain ⟨hregs, hflags, hhalted, -, hpending, hout, hir, hphase, htrace, -⟩ := bootEdge_frame m.rom b
    exact ⟨hdisabled, (gateCpuEnabled_eq m.rom b).trans hdisabled, hpulse, machine_bootEdge m b, hregs, hflags, hhalted,
      hir, hphase, hout, hpending, htrace, rfl⟩
  · intro hk
    have henabled : cpuEnabled m.rom b = true := by rw [cpuEnabled, hrests hk.ge]; rfl
    have hb : b = _ := bootEdges_resetPulse hN s hk.le
    rw [if_pos hk] at hb
    exact ⟨henabled, (gateCpuEnabled_eq m.rom b).trans henabled, congrArg State.pc hb,
      congrArg State.phase hb⟩

end Sys2Proof.Proofs
end

section
/-!
SUPPORT. Devices, the debug channel and the Computer contract (spec/60_exceptions.md R340 to R359,
spec/70_reset_and_hazards.md R383 to R391).
-/

namespace Sys2Proof.Proofs

open Sys2Proof.Machine

/-! ## Installation -/

theorem portsDisjoint_iff (ports installed : List Word) :
    portsDisjoint ports installed = true ↔ ∀ p ∈ ports, p ∉ installed := by
  simp [portsDisjoint]

/-- Settles O55: installation asks every installed device for disjointness. -/
theorem installRefusesPortCollision : Obligations.InstallRefusesPortCollision := by
  unfold Obligations.InstallRefusesPortCollision
  intro ds d
  have hall : ds.all (fun e => portsDisjoint d.ports e.ports) = true ↔ ∀ e ∈ ds, ∀ p ∈ d.ports, p ∉ e.ports := by
    simp only [List.all_eq_true, portsDisjoint_iff]
  constructor
  · rintro ⟨e, he, p, hp, hpe⟩
    have hmeet : ¬ds.all (fun e => portsDisjoint d.ports e.ports) = true := fun h => hall.mp h e he p hp hpe
    rw [install, if_neg hmeet]
  · intro h
    rw [install, if_pos (hall.mpr h)]

/-! ## Pulses of either realisation -/

theorem enabled_iff (rom : List Word) (s : State) :
    Realisation.enabled ⟨.gates, rom⟩ s = true ↔ bootWriteEnable rom s = false := by
  show gateCpuEnabled rom s = true ↔ _
  rw [gateCpuEnabled_eq, cpuEnabled, Bool.not_eq_true']

theorem enabled_congr {m : Realisation} {s t : State} (h : t.bootCount = s.bootCount) : m.enabled t = m.enabled s := by
  obtain ⟨backend, rom⟩ := m
  cases backend with
  | interpreter => rfl
  | gates => rw [Bool.eq_iff_iff, enabled_iff, enabled_iff, bootWriteEnable_congr h]

theorem pulse_of_fetch {m : Realisation} {s : State} (hen : m.enabled s = true) (hp : s.phase = .fetch) :
    m.pulse s = .next (fetchPulse s) := by
  obtain ⟨backend, rom⟩ := m
  cases backend with
  | interpreter => simp [Realisation.pulse, hp]
  | gates => exact (machinePulse_of_enabled ((enabled_iff rom s).mp hen)).trans (gatePulse_of_fetch hp)

theorem pulse_of_execute {m : Realisation} {s : State} (hen : m.enabled s = true) (hp : s.phase = .execute) :
    m.pulse s = executePulse s := by
  obtain ⟨backend, rom⟩ := m
  cases backend with
  | interpreter => simp [Realisation.pulse, hp]
  | gates => exact (machinePulse_of_enabled ((enabled_iff rom s).mp hen)).trans (gatePulse_of_execute hp)

/-- The input sides matter neither for the CPU's being enabled nor for its phase. -/
theorem pulse_withInput_of_execute {m : Realisation} {s : State} (inp : Memory) (hen : m.enabled s = true)
    (hp : s.phase = .execute) : m.pulse { s with input := inp } = executePulse { s with input := inp } :=
  pulse_of_execute (s := { s with input := inp }) ((enabled_congr (by rfl)).trans hen) hp

theorem pulse_withInput_of_fetch {m : Realisation} {s : State} (inp : Memory) (hen : m.enabled s = true)
    (hp : s.phase = .fetch) : m.pulse { s with input := inp } = .next (fetchPulse { s with input := inp }) :=
  pulse_of_fetch (s := { s with input := inp }) ((enabled_congr (by rfl)).trans hen) hp

/-! ## The two edges of an instruction -/

/-- An Execute pulse leaves the input sides. -/
theorem executePulse_input {s t : State} (h : executePulse s = .next t) : t.input = s.input := by
  obtain ⟨i, u, -, hu, rfl⟩ := executePulse_next h
  obtain ⟨hinput, -⟩ := post_of_completes (completes_stores i s) hu
  exact hinput

theorem fetchEdge_of_pulse {m : Realisation} {ds : List Device} {s t : State}
    (h : m.pulse (updateDevices ds s).2 = .next t) :
    Board.fetchEdge ⟨m, ds, s⟩ = .next ⟨m, (updateDevices ds s).1, t⟩ := by
  have hround : updateRounds (Switch.updatesPerInstruction - 1) ds s = updateDevices ds s := rfl
  simp only [Board.fetchEdge, hround, h]
  rfl

theorem executeEdge_of_next {m : Realisation} {ds : List Device} {s t : State}
    (h : m.pulse (executeView s (updateDevices ds s).2) = .next t) :
    Board.executeEdge ⟨m, ds, s⟩ =
      .next ⟨m, (updateDevices ds s).1, { t with input := (updateDevices ds s).2.input }⟩ := by
  simp only [Board.executeEdge, h]

theorem executeEdge_of_fault {m : Realisation} {ds : List Device} {s : State} {f : Fault}
    (h : m.pulse (executeView s (updateDevices ds s).2) = .fault f) : Board.executeEdge ⟨m, ds, s⟩ = .fault f := by
  simp only [Board.executeEdge, h]

theorem executeEdge_of_refused {m : Realisation} {ds : List Device} {s : State} {r : Refusal}
    (h : m.pulse (executeView s (updateDevices ds s).2) = .refused r) : Board.executeEdge ⟨m, ds, s⟩ = .refused r := by
  simp only [Board.executeEdge, h]

/-- Whichever way the open same-edge question goes, the CPU sees the state but for the input sides. -/
theorem executeView_updateDevices (ds : List Device) (s : State) :
    ∃ inp, executeView s (updateDevices ds s).2 = { s with input := inp } := by
  obtain ⟨inp, h, -⟩ := updateDevices_spec ds s
  rw [executeView, h]
  split
  · exact ⟨inp, rfl⟩
  · exact ⟨s.input, rfl⟩

/-! ## A write and the devices -/

/-- The execute edge of an OUT: the devices are updated on the outputs before the write, which the edge then commits. -/
theorem executeEdge_of_out {m : Realisation} (ds : List Device) {s : State} {rx rs : Reg} (hen : m.enabled s = true)
    (hp : s.phase = .execute) (hi : decode s.ir = .ok (.ioOut rx rs)) :
    ∃ t, Board.executeEdge ⟨m, ds, s⟩ = .next ⟨m, (updateDevices ds s).1, t⟩ ∧ t.phase = .fetch ∧
      t.bootCount = s.bootCount ∧ ∀ p, t.readOutput p = if p = s.reg rx then s.reg rs else s.readOutput p := by
  obtain ⟨inp, hview⟩ := executeView_updateDevices ds s
  have hpulse : m.pulse (executeView s (updateDevices ds s).2) =
      .next (backToFetch ({ s with input := inp }.ioWrite (s.reg rx) (s.reg rs)).advance) := by
    rw [hview, pulse_withInput_of_execute inp hen hp]
    simp only [executePulse, executeWord, hi]
    rfl
  exact ⟨_, executeEdge_of_next hpulse, rfl, rfl, fun p => readOutput_ioWrite s (s.reg rx) p (s.reg rs)⟩

theorem fetchEdge_enabled {m : Realisation} (ds : List Device) {s : State} (hen : m.enabled s = true)
    (hp : s.phase = .fetch) :
    ∃ inp, Board.fetchEdge ⟨m, ds, s⟩ = .next ⟨m, (updateDevices ds s).1, fetchPulse { s with input := inp }⟩ := by
  obtain ⟨inp, hupdated, -⟩ := updateDevices_spec ds s
  exact ⟨inp, fetchEdge_of_pulse (by rw [hupdated, pulse_withInput_of_fetch inp hen hp])⟩

/-- Settles O54: every update at an edge reads the outputs as they stood before the edge's devices and CPU. -/
theorem deviceSeesWriteOneEdgeLater : Obligations.DeviceSeesWriteOneEdgeLater := by
  unfold Obligations.DeviceSeesWriteOneEdgeLater
  intro m ds s rx rs hen hp hi observing ds1
  obtain ⟨t, hexecute, hphase, hboot, hout⟩ := executeEdge_of_out ds hen hp hi
  obtain ⟨inp, hfetch⟩ := fetchEdge_enabled (m := m) ds1 ((enabled_congr hboot).trans hen) hphase
  rw [updateDevices_devices] at hexecute hfetch
  exact ⟨t, _, hexecute, hout, hfetch⟩

/-! ## Boards against steps and against each other -/

/-- Without devices the edges of an instruction are one step. -/
theorem runInstruction_without_devices {m : Realisation} {s : State} (hen : m.enabled s = true) :
    Board.runInstruction ⟨m, [], s⟩ = Board.withOutcome ⟨m, [], s⟩ (step s) := by
  have hexecute (u : State) (hu : m.enabled u = true) (hp : u.phase = .execute) :
      Board.executeEdge ⟨m, [], u⟩ = Board.withOutcome ⟨m, [], u⟩ (executePulse u) := by
    have hview : m.pulse (executeView u (updateDevices [] u).2) = executePulse u := by
      rw [← pulse_of_execute hu hp]
      exact congrArg m.pulse (executeView_same u)
    cases hpulse : executePulse u with
    | next t =>
      have hinput : { t with input := u.input } = t := by rw [← executePulse_input hpulse]
      exact (executeEdge_of_next (hview.trans hpulse)).trans (by rw [Board.withOutcome]; simp only [updateDevices, hinput])
    | fault f => exact executeEdge_of_fault (hview.trans hpulse)
    | refused r => exact executeEdge_of_refused (hview.trans hpulse)
  cases hp : s.phase with
  | execute =>
    rw [step, runInstruction, hp]
    simp only [Board.runInstruction, hp]
    exact hexecute s hen hp
  | fetch =>
    have hfetch : Board.fetchEdge ⟨m, [], s⟩ = .next ⟨m, [], fetchPulse s⟩ :=
      fetchEdge_of_pulse (ds := []) (pulse_of_fetch hen hp)
    rw [step, runInstruction, hp]
    simp only [Board.runInstruction, hp, hfetch]
    exact hexecute (fetchPulse s) ((enabled_congr (fetchPulse_bootCount s)).trans hen) (fetchPulse_phase s)

/-- What one machine ends with, next board or fault, another ends with too. -/
def EndsAlike (m m' : Realisation) (o o' : Host.Outcome Board Fault Refusal) : Prop :=
  (∀ ds t, o = .next ⟨m, ds, t⟩ → o' = .next ⟨m', ds, t⟩) ∧ ∀ f, o = .fault f → o' = .fault f

theorem executeEdge_endsAlike {m m' : Realisation} {ds : List Device} {s : State}
    (h : m.pulse (executeView s (updateDevices ds s).2) = m'.pulse (executeView s (updateDevices ds s).2)) :
    EndsAlike m m' (Board.executeEdge ⟨m, ds, s⟩) (Board.executeEdge ⟨m', ds, s⟩) := by
  cases hpulse : m.pulse (executeView s (updateDevices ds s).2) with
  | next t =>
    rw [executeEdge_of_next hpulse, executeEdge_of_next (h.symm.trans hpulse)]
    refine ⟨fun ds' t' heq => ?_, nofun⟩
    cases heq
    rfl
  | fault f =>
    rw [executeEdge_of_fault hpulse, executeEdge_of_fault (h.symm.trans hpulse)]
    exact ⟨nofun, fun f heq => heq⟩
  | refused r =>
    rw [executeEdge_of_refused hpulse]
    exact ⟨nofun, nofun⟩

theorem executeEdge_enabled_endsAlike {m m' : Realisation} (ds : List Device) {s : State} (hen : m.enabled s = true)
    (hen' : m'.enabled s = true) (hp : s.phase = .execute) :
    EndsAlike m m' (Board.executeEdge ⟨m, ds, s⟩) (Board.executeEdge ⟨m', ds, s⟩) := by
  obtain ⟨inp, hview⟩ := executeView_updateDevices ds s
  refine executeEdge_endsAlike ?_
  rw [hview, pulse_withInput_of_execute inp hen hp, pulse_withInput_of_execute inp hen' hp]

/-- Two machines whose CPUs are enabled end an instruction alike, devices included. -/
theorem runInstruction_endsAlike {m m' : Realisation} (ds : List Device) {s : State} (hen : m.enabled s = true)
    (hen' : m'.enabled s = true) :
    EndsAlike m m' (Board.runInstruction ⟨m, ds, s⟩) (Board.runInstruction ⟨m', ds, s⟩) := by
  cases hp : s.phase with
  | execute =>
    simp only [Board.runInstruction, hp]
    exact executeEdge_enabled_endsAlike ds hen hen' hp
  | fetch =>
    obtain ⟨inp, hupdated, -⟩ := updateDevices_spec ds s
    have hfetch {n : Realisation} (hn : n.enabled s = true) : Board.fetchEdge ⟨n, ds, s⟩ =
        .next ⟨n, (updateDevices ds s).1, fetchPulse { s with input := inp }⟩ :=
      fetchEdge_of_pulse (by rw [hupdated, pulse_withInput_of_fetch inp hn hp])
    simp only [Board.runInstruction, hp, hfetch hen, hfetch hen']
    exact executeEdge_enabled_endsAlike _ ((enabled_congr rfl).trans hen) ((enabled_congr rfl).trans hen') rfl

/-- Settles O56. -/
theorem boardWithoutDevicesIsStep : Obligations.BoardWithoutDevicesIsStep := by
  unfold Obligations.BoardWithoutDevicesIsStep
  refine ⟨fun m s hen => ⟨fun t ht => ?_, fun f hf => ?_⟩, fun rom ds ds' s hen => ?_⟩
  · rw [runInstruction_without_devices hen, ht]
    rfl
  · rw [runInstruction_without_devices hen, hf]
    rfl
  · obtain ⟨hnext, hfault⟩ := runInstruction_endsAlike (m := ⟨.interpreter, rom⟩) (m' := ⟨.gates, rom⟩) ds
      (interpreter_enabled rom s) hen
    exact ⟨hnext ds', hfault⟩

/-! ## The debug channel -/

theorem machine_debugRegister (m : Realisation) (r : RegId) (s : State) : m.debugRegister r s = s.debugRegister r := by
  obtain ⟨backend, rom⟩ := m
  cases backend with
  | interpreter => rfl
  | gates =>
    cases r with
    | writable r =>
      show wordOfBus (readSelect false (busOf r.code) _ _ _) = _
      rw [readSelect_busOf, wordOfBus_busOf, regOfCode_code]
      rfl
    | ip =>
      show wordOfBus (readSelect true (busOf 0#3) _ _ _) = _
      rw [readSelect_busOf, wordOfBus_busOf]
      rfl
    | flags =>
      show wordOfBus (readSelect true (busOf 1#3) _ _ _) = _
      rw [readSelect_busOf, wordOfBus_busOf]
      rfl

theorem machine_debugMemory (m : Realisation) (a : Word) (s : State) : m.debugMemory a s = s.memRead a := by
  obtain ⟨backend, rom⟩ := m
  cases backend with
  | interpreter => rfl
  | gates =>
    show wordOfBus (gateMemRead s (busOf a)) = _
    rw [gateMemRead_busOf, wordOfBus_busOf]

/-- Serving a list gives what serving it without its reads gives. -/
theorem serveAll_filter (m : Realisation) (reqs : List DebugRequest) (s : State) :
    serveAll m reqs s = serveAll m (reqs.filter (fun req => !req.isRead)) s := by
  induction reqs generalizing s with
  | nil => rfl
  | cons req reqs ih =>
    cases req with
    | readRegister r => exact ih s
    | readMemory a => exact ih s
    | normal =>
      show serveAll m (.normal :: reqs) s = serveAll m (.normal :: reqs.filter _) s
      simp only [serveAll, ih]
    | inject w =>
      show serveAll m (.inject w :: reqs) s = serveAll m (.inject w :: reqs.filter _) s
      simp only [serveAll, ih]

theorem afterDebugRead_state (c : Computer) (rounds : Nat) :
    (c.afterDebugRead rounds).status = c.status ∧ ∃ inp, (c.afterDebugRead rounds).state = { c.state with input := inp } := by
  obtain ⟨-, inp, hupdated⟩ := board_updated rounds c.board
  rw [Computer.afterDebugRead]
  cases hstatus : c.status with
  | created => exact ⟨hstatus, inp, hupdated⟩
  | ready => exact ⟨hstatus, inp, hupdated⟩
  | faulted w a => exact ⟨hstatus, c.state.input, rfl⟩

/-- Settles O57. -/
theorem debugReadsPerturbNothing : Obligations.DebugReadsPerturbNothing := by
  unfold Obligations.DebugReadsPerturbNothing
  constructor
  · intro m reqs s
    refine ⟨serveAll_filter m reqs s, fun _ => rfl, fun a => ?_, fun r => machine_debugRegister m _ s,
      machine_debugRegister m .ip s, ?_⟩
    · rw [serveDebug, machine_debugMemory]
    · rw [machine_debugRegister]
      exact flagsWord_toNat s.flags
  · intro c r a rounds
    obtain ⟨hstatus, hstate⟩ := afterDebugRead_state c rounds
    exact ⟨rfl, machine_debugMemory c.machine a c.state, rfl, hstatus, hstate⟩

/-! ## One instruction of a Computer without devices -/

section
variable {c : Computer} (hready : c.status = .ready) (hdev : c.devices = []) (hen : c.machine.enabled c.state = true)
include hready hdev hen

theorem runNextInstruction_without_devices :
    c.runNextInstruction = c.after (Board.withOutcome c.board (step c.state)) := by
  have hboard : c.board = ⟨c.machine, [], c.state⟩ := by rw [Computer.board, hdev]
  simp only [Computer.runNextInstruction, Computer.ifReady, hready, hboard, runInstruction_without_devices hen]

theorem runNextInstruction_of_next {t : State} (ht : step c.state = .next t) :
    c.runNextInstruction = .ok { c with state := t } := by
  rw [runNextInstruction_without_devices hready hdev hen, ht]
  rfl

theorem runNextInstruction_of_fault {w a : Word} (hf : step c.state = .fault (.decodeFault w a)) :
    c.runNextInstruction = .ok { c with status := .faulted w a } := by
  rw [runNextInstruction_without_devices hready hdev hen, hf]
  rfl

theorem runNextInstruction_of_refused {r : Refusal} (hr : step c.state = .refused r) :
    c.runNextInstruction = .error r := by
  rw [runNextInstruction_without_devices hready hdev hen, hr]
  rfl

theorem runUntilHalt_of_halts {t : State} (fuel : Nat) (ht : step c.state = .next t) (hhalt : t.halted = true) :
    Computer.runUntilHalt (fuel + 1) c = some (.ok { c with state := t }) := by
  simp [Computer.runUntilHalt, runNextInstruction_of_next hready hdev hen ht, Computer.final, hready, hhalt]

theorem runUntilHalt_of_continues {t : State} (fuel : Nat) (ht : step c.state = .next t) (hhalt : t.halted = false) :
    Computer.runUntilHalt (fuel + 1) c = Computer.runUntilHalt fuel { c with state := t } := by
  simp [Computer.runUntilHalt, runNextInstruction_of_next hready hdev hen ht, Computer.final, Computer.aborted, hready,
    hhalt]

theorem runUntilHalt_of_fault {w a : Word} (fuel : Nat) (hf : step c.state = .fault (.decodeFault w a)) :
    Computer.runUntilHalt (fuel + 1) c = some (.ok { c with status := .faulted w a }) := by
  simp [Computer.runUntilHalt, runNextInstruction_of_fault hready hdev hen hf, Computer.aborted]

theorem runUntilHalt_of_refused {r : Refusal} (fuel : Nat) (hr : step c.state = .refused r) :
    Computer.runUntilHalt (fuel + 1) c = some (.error r) := by
  simp [Computer.runUntilHalt, runNextInstruction_of_refused hready hdev hen hr]

end

/-- A run answers a Computer only where it was ready at the start. -/
theorem ready_of_runUntilHalt {fuel : Nat} {c c' : Computer} (h : Computer.runUntilHalt fuel c = some (.ok c')) :
    c.status = .ready := by
  cases fuel with
  | zero => cases h
  | succ fuel =>
    cases hstatus : c.status with
    | ready => rfl
    | created =>
      rw [Computer.runUntilHalt, Computer.runNextInstruction, Computer.ifReady, hstatus] at h
      cases h
    | faulted w a =>
      rw [Computer.runUntilHalt, Computer.runNextInstruction, Computer.ifReady, hstatus] at h
      cases h

/-! ## The first final state of a run -/

theorem runSteps_succ_of_next {s t : State} (k : Nat) (h : step s = .next t) : runSteps (k + 1) s = runSteps k t := by
  rw [runSteps, h]

/-- No run of at least one and fewer than `k` steps is final. -/
def NoneFinalBefore (k : Nat) (s : State) : Prop := ∀ j, 0 < j → j < k → ¬Final (runSteps j s)

theorem final_next (t : State) : Final (.next t) ↔ t.halted = true :=
  ⟨fun ⟨_, heq, hhalt⟩ => by cases heq; exact hhalt, fun hhalt => ⟨t, rfl, hhalt⟩⟩

theorem noneFinalBefore_succ {s t : State} (k : Nat) (h : step s = .next t) :
    NoneFinalBefore (k + 1) s ↔ (0 < k → t.halted = false) ∧ NoneFinalBefore k t := by
  have hone : Final (runSteps 1 s) ↔ t.halted = true := by
    rw [runSteps_succ_of_next 0 h, runSteps, final_next]
  constructor
  · intro hnone
    refine ⟨fun hk => ?_, fun j hj hjk => ?_⟩
    · exact Bool.eq_false_iff.mpr fun hhalt => hnone 1 Nat.one_pos (by omega) (hone.mpr hhalt)
    · rw [← runSteps_succ_of_next j h]
      exact hnone (j + 1) (Nat.succ_pos j) (by omega)
  · rintro ⟨hfirst, hrest⟩ j hj hjk
    obtain _ | _ | j := j
    · omega
    · rw [hone, hfirst (by omega)]
      exact Bool.false_ne_true
    · rw [runSteps_succ_of_next (j + 1) h]
      exact hrest (j + 1) (Nat.succ_pos j) (by omega)

/-- What a run returns ready is the state after the first final number of steps. -/
theorem firstFinal_of_runUntilHalt {fuel : Nat} {c c' : Computer} (hdev : c.devices = [])
    (hphase : c.state.phase = .fetch) (hen : c.machine.enabled c.state = true)
    (hrun : Computer.runUntilHalt fuel c = some (.ok c')) (hready' : c'.status = .ready) :
    ∃ k, 0 < k ∧ k ≤ fuel ∧ runSteps k c.state = .next c'.state ∧ c'.final = true ∧ NoneFinalBefore k c.state := by
  induction fuel generalizing c with
  | zero => cases hrun
  | succ fuel ih =>
    have hready := ready_of_runUntilHalt hrun
    cases hstep : step c.state with
    | refused r =>
      rw [runUntilHalt_of_refused hready hdev hen fuel hstep] at hrun
      cases hrun
    | fault f =>
      obtain ⟨w, a⟩ := f
      rw [runUntilHalt_of_fault hready hdev hen fuel hstep] at hrun
      cases hrun
      cases hready'
    | next t =>
      cases hhalt : t.halted with
      | true =>
        rw [runUntilHalt_of_halts hready hdev hen fuel hstep hhalt] at hrun
        cases hrun
        refine ⟨1, Nat.one_pos, by omega, runSteps_succ_of_next 0 hstep, ?_, fun j hj hj1 => by omega⟩
        simp only [Computer.final, hready, hhalt]
      | false =>
        rw [runUntilHalt_of_continues hready hdev hen fuel hstep hhalt] at hrun
        obtain ⟨hphase', hboot⟩ := step_sequencing hphase hstep
        obtain ⟨k, hk, hkfuel, hruns, hfinal, hnone⟩ :=
          ih (c := { c with state := t }) hdev hphase' ((enabled_congr hboot).trans hen) hrun
        exact ⟨k + 1, Nat.succ_pos k, by omega, (runSteps_succ_of_next k hstep).trans hruns, hfinal,
          (noneFinalBefore_succ k hstep).mpr ⟨fun _ => hhalt, hnone⟩⟩

/-- A run that has the fuel for its first final state returns it. -/
theorem runUntilHalt_of_firstFinal {fuel k : Nat} {c : Computer} {t : State} (hdev : c.devices = [])
    (hphase : c.state.phase = .fetch) (hen : c.machine.enabled c.state = true) (hready : c.status = .ready)
    (hk : 0 < k) (hkfuel : k ≤ fuel) (hruns : runSteps k c.state = .next t) (hhalt : t.halted = true)
    (hnone : NoneFinalBefore k c.state) : Computer.runUntilHalt fuel c = some (.ok { c with state := t }) := by
  induction fuel generalizing c k with
  | zero => omega
  | succ fuel ih =>
    obtain _ | k := k
    · omega
    cases hstep : step c.state with
    | refused r => simp [runSteps, hstep] at hruns
    | fault f => simp [runSteps, hstep] at hruns
    | next u =>
      rw [runSteps_succ_of_next k hstep] at hruns
      obtain ⟨hfirst, hrest⟩ := (noneFinalBefore_succ k hstep).mp hnone
      rcases Nat.eq_zero_or_pos k with rfl | hpos
      · cases hruns
        exact runUntilHalt_of_halts hready hdev hen fuel hstep hhalt
      · rw [runUntilHalt_of_continues hready hdev hen fuel hstep (hfirst hpos)]
        obtain ⟨hphase', hboot⟩ := step_sequencing hphase hstep
        exact ih (c := { c with state := u }) hdev hphase' ((enabled_congr hboot).trans hen) hready hpos (by omega)
          hruns hrest

/-- Settles O59: each direction by induction on the fuel. -/
theorem runUntilHaltStopsAtFirstHlt : Obligations.RunUntilHaltStopsAtFirstHlt := by
  unfold Obligations.RunUntilHaltStopsAtFirstHlt
  intro fuel c hdev hphase hen
  refine ⟨fun c' hrun hready' => firstFinal_of_runUntilHalt hdev hphase hen hrun hready', ?_⟩
  intro k t hready hk hkfuel hruns hfinal hnone
  rw [hruns, final_next] at hfinal
  exact runUntilHalt_of_firstFinal hdev hphase hen hready hk hkfuel hruns hfinal hnone

/-! ## The fault state -/

section
variable {c : Computer} {w a : Word} (hfault : c.status = .faulted w a)
include hfault

theorem ifReady_of_faulted (k : Except Refusal Computer) : c.ifReady k = .error .afterFault := by
  rw [Computer.ifReady, hfault]

theorem ifNotFaulted_of_faulted (k : Except Refusal Computer) : c.ifNotFaulted k = .error .afterFault := by
  rw [Computer.ifNotFaulted, hfault]

theorem final_of_faulted : c.final = false := by
  rw [Computer.final, hfault]

theorem runUntilHalt_of_faulted (fuel : Nat) : Computer.runUntilHalt (fuel + 1) c = some (.error .afterFault) := by
  rw [Computer.runUntilHalt, Computer.runNextInstruction, ifReady_of_faulted hfault]

theorem afterDebugRead_of_faulted (rounds : Nat) : c.afterDebugRead rounds = c := by
  rw [Computer.afterDebugRead, hfault]

end

/-- Settles O60: a fault sets the status alone, and each operation but reset asks the status first. -/
theorem faultStateLeftOnlyByReset : Obligations.FaultStateLeftOnlyByReset := by
  unfold Obligations.FaultStateLeftOnlyByReset
  refine ⟨fun c w a hready hdev hen hf => runNextInstruction_of_fault hready hdev hen hf, fun c w a hfault => ?_⟩
  exact ⟨final_of_faulted hfault, ifReady_of_faulted hfault _, runUntilHalt_of_faulted hfault,
    fun _ _ _ => ifReady_of_faulted hfault _, fun _ => ifNotFaulted_of_faulted hfault _,
    fun _ _ => ifNotFaulted_of_faulted hfault _, fun _ => afterDebugRead_of_faulted hfault,
    fun _ => afterDebugRead_of_faulted hfault, fun _ => rfl⟩

end Sys2Proof.Proofs
end
